-- ==== Sys2Proof/Word.lean ====
section
/-! DEFINITION. The word types of the machine (00_scope.md rules R7, R8, R9). All values are unsigned
(R9), so a bit vector of the spec's width says everything about one. -/

namespace Sys2Proof

/-- A V register, a timer, a byte of memory, a byte literal kk, a sprite row (R7). -/
abbrev Byte := BitVec 8

/-- An opcode, PC, I, a stack slot (R7). -/
abbrev Word := BitVec 16

/-- The 4-bit index of a V register or of a stack slot (R21, R29). -/
abbrev RegIdx := BitVec 4

/-- A 12-bit address literal nnn (R18), and the start of a LOAD (R80). -/
abbrev Addr := BitVec 12

/-- The index of VF, the flag register (R23). -/
abbrev regVF : RegIdx := 0xF#4

end Sys2Proof
end

