-- ==== Sys2Proof/Machine/Flags.lean ====
section
/-! DEFINITION. The values written to VF (42_alu.md rules R125, R127), each 0x00 or 0x01, from the
operands' values before the instruction. -/

namespace Sys2Proof.Machine

/-- A flag as a byte (R23). -/
def flagByte (b : Bool) : Byte := if b then 0x01#8 else 0x00#8

/-- 8xy4: the carry out of bit 7, sum > 255 (R118). -/
def carryFlag (a b : Byte) : Byte := flagByte (decide (a.toNat + b.toNat > 255))

/-- 8xy5 and 8xy7: no borrow, minuend >= subtrahend (R119, R121). -/
def noBorrowFlag (minuend subtrahend : Byte) : Byte :=
  flagByte (decide (minuend.toNat ≥ subtrahend.toNat))

/-- 8xy6: bit 0 of the old Vx, the bit shifted out (R120). -/
def shrFlag (a : Byte) : Byte := a &&& 0x01#8

/-- 8xyE: bit 0 of the old Vx, not bit 7 (R122: SHL_FLAG_BIT = LSB; 90_conflicts.md C10). -/
def shlFlag (a : Byte) : Byte := a &&& 0x01#8

end Sys2Proof.Machine
end

