-- ==== Sys2Proof/Syntax.lean ====
section
/-! DEFINITION. The 22 instructions (30_encoding.md rule R72), one constructor per row of
spec/opcode_table.json. The operands are those of the formats Z, A, XK, XY and X (R66); each has the
width of its field (R65), so every value of an operand is a legal one (R67, R68, R69). -/

namespace Sys2Proof

inductive Instr where
  /-- 00E0 CLS (R135) -/
  | cls
  /-- 00EE RET (R101) -/
  | ret
  /-- 1nnn JP addr (R102) -/
  | jp (nnn : Addr)
  /-- 2nnn CALL addr (R103) -/
  | call (nnn : Addr)
  /-- 3xkk SE Vx, byte (R105) -/
  | seByte (x : RegIdx) (kk : Byte)
  /-- 4xkk SNE Vx, byte (R106) -/
  | sneByte (x : RegIdx) (kk : Byte)
  /-- 5xy0 SE Vx, Vy (R107) -/
  | seReg (x y : RegIdx)
  /-- 6xkk LD Vx, byte (R112) -/
  | ldByte (x : RegIdx) (kk : Byte)
  /-- 7xkk ADD Vx, byte (R113) -/
  | addByte (x : RegIdx) (kk : Byte)
  /-- 8xy0 LD Vx, Vy (R114) -/
  | ldReg (x y : RegIdx)
  /-- 8xy1 OR Vx, Vy (R115) -/
  | orReg (x y : RegIdx)
  /-- 8xy2 AND Vx, Vy (R116) -/
  | andReg (x y : RegIdx)
  /-- 8xy3 XOR Vx, Vy (R117) -/
  | xorReg (x y : RegIdx)
  /-- 8xy4 ADD Vx, Vy (R118) -/
  | addReg (x y : RegIdx)
  /-- 8xy5 SUB Vx, Vy (R119) -/
  | subReg (x y : RegIdx)
  /-- 8xy6 SHR Vx; y is encoded and ignored (R120, R66) -/
  | shr (x y : RegIdx)
  /-- 8xy7 SUBN Vx, Vy (R121) -/
  | subnReg (x y : RegIdx)
  /-- 8xyE SHL Vx; y is encoded and ignored (R122, R66) -/
  | shl (x y : RegIdx)
  /-- 9xy0 SNE Vx, Vy (R108) -/
  | sneReg (x y : RegIdx)
  /-- Annn LD I, addr (R123) -/
  | ldI (nnn : Addr)
  /-- Bnnn JP V0, addr (R110) -/
  | jpV0 (nnn : Addr)
  /-- Cxkk RND Vx, byte (R124) -/
  | rnd (x : RegIdx) (kk : Byte)
deriving DecidableEq, Repr

end Sys2Proof
end

