-- ==== Sys2Proof/Decode.lean ====
section
/-! DEFINITION. The byte order of a word (20_memory.md rule R45), the decoder (30_encoding.md rules R71
to R76), and the encoder, written from the formats of R66. -/

namespace Sys2Proof

/-! ## Byte order -/

/-- Bits 15:8 of a word: the byte at the lower address (R45). -/
def hiByte (w : Word) : Byte := w.extractLsb' 8 8

/-- Bits 7:0 of a word: the byte at the higher address (R45). -/
def loByte (w : Word) : Byte := w.extractLsb' 0 8

/-- The word whose high byte is `hi` and whose low byte is `lo` (R45, R48). -/
def wordOfBytes (hi lo : Byte) : Word := hi ++ lo

/-! ## Fields (R65) -/

/-- x = op[11:8] -/
def fieldX (op : Word) : RegIdx := op.extractLsb' 8 4

/-- y = op[7:4] -/
def fieldY (op : Word) : RegIdx := op.extractLsb' 4 4

/-- kk = op[7:0] -/
def fieldKK (op : Word) : Byte := op.extractLsb' 0 8

/-- nnn = op[11:0] -/
def fieldNNN (op : Word) : Addr := op.extractLsb' 0 12

/-! ## The handler table -/

/-- One entry of the handler table (R72): it matches `op` when `op & mask = pattern` (R71), and then
stands for `build op`. -/
structure Entry where
  mask : Word
  pattern : Word
  build : Word → Instr

/-- R71: `(op & e.mask) = e.match`. -/
def Entry.isMatch (e : Entry) (op : Word) : Bool := (op &&& e.mask) == e.pattern

/-- Rows 1 to 7 of R72. -/
def controlEntries : List Entry :=
  [ ⟨0xFFFF#16, 0x00E0#16, fun _ => .cls⟩,
    ⟨0xFFFF#16, 0x00EE#16, fun _ => .ret⟩,
    ⟨0xF000#16, 0x1000#16, fun op => .jp (fieldNNN op)⟩,
    ⟨0xF000#16, 0x2000#16, fun op => .call (fieldNNN op)⟩,
    ⟨0xF000#16, 0x3000#16, fun op => .seByte (fieldX op) (fieldKK op)⟩,
    ⟨0xF000#16, 0x4000#16, fun op => .sneByte (fieldX op) (fieldKK op)⟩,
    ⟨0xF00F#16, 0x5000#16, fun op => .seReg (fieldX op) (fieldY op)⟩ ]

/-- Rows 8 to 18 of R72. -/
def aluEntries : List Entry :=
  [ ⟨0xF000#16, 0x6000#16, fun op => .ldByte (fieldX op) (fieldKK op)⟩,
    ⟨0xF000#16, 0x7000#16, fun op => .addByte (fieldX op) (fieldKK op)⟩,
    ⟨0xF00F#16, 0x8000#16, fun op => .ldReg (fieldX op) (fieldY op)⟩,
    ⟨0xF00F#16, 0x8001#16, fun op => .orReg (fieldX op) (fieldY op)⟩,
    ⟨0xF00F#16, 0x8002#16, fun op => .andReg (fieldX op) (fieldY op)⟩,
    ⟨0xF00F#16, 0x8003#16, fun op => .xorReg (fieldX op) (fieldY op)⟩,
    ⟨0xF00F#16, 0x8004#16, fun op => .addReg (fieldX op) (fieldY op)⟩,
    ⟨0xF00F#16, 0x8005#16, fun op => .subReg (fieldX op) (fieldY op)⟩,
    ⟨0xF00F#16, 0x8006#16, fun op => .shr (fieldX op) (fieldY op)⟩,
    ⟨0xF00F#16, 0x8007#16, fun op => .subnReg (fieldX op) (fieldY op)⟩,
    ⟨0xF00F#16, 0x800E#16, fun op => .shl (fieldX op) (fieldY op)⟩ ]

/-- Rows 19 to 22 of R72. -/
def lastEntries : List Entry :=
  [ ⟨0xF00F#16, 0x9000#16, fun op => .sneReg (fieldX op) (fieldY op)⟩,
    ⟨0xF000#16, 0xA000#16, fun op => .ldI (fieldNNN op)⟩,
    ⟨0xF000#16, 0xB000#16, fun op => .jpV0 (fieldNNN op)⟩,
    ⟨0xF000#16, 0xC000#16, fun op => .rnd (fieldX op) (fieldKK op)⟩ ]

/-- The handler table: exactly 22 entries, in the source's order (R72). -/
def handlerTable : List Entry := controlEntries ++ aluEntries ++ lastEntries

/-- Scan the table in order and take the first entry that matches; `none` for an unknown opcode (R71,
R73). -/
def decodeWord (op : Word) : Option Instr :=
  (handlerTable.find? (·.isMatch op)).map (·.build op)

/-- Why bytes decode to no instruction. -/
inductive Reject where
  /-- fewer than the two bytes every instruction has (R64) -/
  | truncated
  /-- no entry of the handler table matches (R73) -/
  | unknownOpcode (op : Word)
deriving DecidableEq, Repr

/-- Decode the instruction at the head of a byte string; every instruction is two bytes, the high byte
first (R64). -/
def decode : List Byte → Except Reject (Instr × List Byte)
  | hi :: lo :: rest =>
    match decodeWord (wordOfBytes hi lo) with
    | some i => .ok (i, rest)
    | none => .error (.unknownOpcode (wordOfBytes hi lo))
  | _ => .error .truncated

/-! ## The encoder -/

/-- Format A: `c nnn` (R66). -/
def encodeA (c : BitVec 4) (nnn : Addr) : Word := c ++ nnn

/-- Format XK: `c x kk` (R66). -/
def encodeXK (c : BitVec 4) (x : RegIdx) (kk : Byte) : Word := c ++ (x ++ kk : BitVec 12)

/-- Formats XY and X: `c x y n` (R66). -/
def encodeXY (c : BitVec 4) (x y : RegIdx) (n : BitVec 4) : Word :=
  c ++ (x ++ (y ++ n : BitVec 8) : BitVec 12)

/-- The word of an instruction. -/
def encode : Instr → Word
  | .cls => 0x00E0#16
  | .ret => 0x00EE#16
  | .jp nnn => encodeA 0x1#4 nnn
  | .call nnn => encodeA 0x2#4 nnn
  | .seByte x kk => encodeXK 0x3#4 x kk
  | .sneByte x kk => encodeXK 0x4#4 x kk
  | .seReg x y => encodeXY 0x5#4 x y 0x0#4
  | .ldByte x kk => encodeXK 0x6#4 x kk
  | .addByte x kk => encodeXK 0x7#4 x kk
  | .ldReg x y => encodeXY 0x8#4 x y 0x0#4
  | .orReg x y => encodeXY 0x8#4 x y 0x1#4
  | .andReg x y => encodeXY 0x8#4 x y 0x2#4
  | .xorReg x y => encodeXY 0x8#4 x y 0x3#4
  | .addReg x y => encodeXY 0x8#4 x y 0x4#4
  | .subReg x y => encodeXY 0x8#4 x y 0x5#4
  | .shr x y => encodeXY 0x8#4 x y 0x6#4
  | .subnReg x y => encodeXY 0x8#4 x y 0x7#4
  | .shl x y => encodeXY 0x8#4 x y 0xE#4
  | .sneReg x y => encodeXY 0x9#4 x y 0x0#4
  | .ldI nnn => encodeA 0xA#4 nnn
  | .jpV0 nnn => encodeA 0xB#4 nnn
  | .rnd x kk => encodeXK 0xC#4 x kk

/-- The two bytes of a word as memory holds them, the high byte first (R45). -/
def bytesOfWord (w : Word) : List Byte := [hiByte w, loByte w]

/-- The bytes of an instruction as memory holds them (R64). -/
def encodeBytes (i : Instr) : List Byte := bytesOfWord (encode i)

/-- What the decoder reads from the instruction whose bits are `w`, `nbits` of them. -/
def decodeTableWord (nbits w : Nat) : Option Instr :=
  match decode (bytesOfWord (BitVec.ofNat 16 (w % 2 ^ nbits))) with
  | .ok (i, _) => some i
  | .error _ => none

end Sys2Proof
end

