-- ==== Sys2Proof/Config.lean ====
section
/-! DEFINITION. What this hardware fixes (00_scope.md rule R7) and the free values of the model. -/

namespace Sys2Proof.Config

/-- MEM_SIZE: addresses 0x000 to 0xFFF (R7, R40; 90_conflicts.md C1). -/
abbrev memSize : Nat := 4096

/-- STACK_DEPTH (R7, R29). -/
abbrev stackDepth : Nat := 16

/-- SCREEN_W (R7, R35). -/
abbrev screenW : Nat := 64

/-- SCREEN_H (R7, R35). -/
abbrev screenH : Nat := 32

/-- SPRITE_ROWS_MAX: a DRAW carries at most 15 rows (R7, R93; 92_eei_decisions.md D11). -/
abbrev spriteRowsMax : Nat := 15

/-- LOAD_DEFAULT_START: where a LOAD that names no start begins (R7, R55, R80). -/
abbrev loadDefaultStart : Addr := 0x200#12

/-- EMPTY_POP_MODE (R7, R32): what a pop of an empty stack returns. -/
inductive EmptyPopMode where
  /-- the pop returns 0x0000 -/
  | zero
  /-- the pop returns the contents of S[0] -/
  | slot0
deriving DecidableEq, Repr

/-- This hardware's EMPTY_POP_MODE (R7, R32; 92_eei_decisions.md D4): that of `State.reset`. The mode a
state runs under is its own field. -/
abbrev emptyPopMode : EmptyPopMode := .zero

/-- FREE VALUE: the byte the host's random source answers to its `n`-th request, where the host has
announced no answer of its own (R88; 93_implementation_defined.md U3). It has no body, so no proof can
know it. Log entry 4. -/
opaque randomByte : Nat → Byte

end Sys2Proof.Config
end

