-- ==== Sys2Proof/Machine/Request.lean ====
section
/-! DEFINITION. What the host can ask of the core and what it answers (40_engine.md rules R80, R91,
R92; 60_exceptions.md rule R145). -/

namespace Sys2Proof.Machine

/-- The two timers WRITE_TIMER can set (R92). -/
inductive Timer where
  | dt
  | st
deriving DecidableEq, Repr

/-- What READ can return (R91). IR and FSM are not among them. -/
inductive ReadTarget where
  /-- V[k] -/
  | v (k : RegIdx)
  /-- I -/
  | i
  /-- PC -/
  | pc
  /-- DT -/
  | dt
  /-- ST -/
  | st
  /-- SC -/
  | sc
  /-- S[k], whether or not k < SC -/
  | slot (k : RegIdx)
  /-- MEM[a mod 4096] -/
  | mem (a : Word)
  /-- FB(x, y), wrapped -/
  | fb (x y : Byte)
deriving DecidableEq, Repr

/-- The host's transactions (R80). -/
inductive Request where
  | reset
  /-- `none` where the host names no start: it is then LOAD_DEFAULT_START (R55) -/
  | load (start : Option Addr) (data : List Byte)
  | step
  | read (t : ReadTarget)
  | writeTimer (t : Timer) (v : Byte)
  | draw (x y : Byte) (rows : List Byte)
  /-- a request outside the set of R80: a reserved request code or selector (R98, R143) -/
  | malformed
deriving DecidableEq, Repr

/-- What the core answers (R80, R145). -/
inductive Response where
  /-- RESET has no response (R97, R98) -/
  | noResponse
  /-- the request was made while the core was busy and is not seen (R165; log entry 11) -/
  | notSeen
  /-- OK, with nothing to return -/
  | ok
  /-- OK to a READ, the value zero-extended to 16 bits (R91, R98) -/
  | value (v : Word)
  /-- OK to a DRAW, with did_erase (R93) -/
  | didErase (b : Bool)
  /-- UNKNOWN_OPCODE: the opcode and the address it was fetched from (R87, R141) -/
  | unknownOpcode (opcode addr : Word)
  /-- LOAD_TOO_LARGE (R90, R142) -/
  | loadTooLarge
  /-- BAD_REQUEST (R143) -/
  | badRequest
deriving DecidableEq, Repr

end Sys2Proof.Machine
end

