-- ==== Sys2Proof/Machine/State.lean ====
section
/-! DEFINITION. The state of the core (10_state.md rule R20), as plain data, the reasons a step can
stop, and the state after reset (R39). -/

namespace Sys2Proof.Machine

/-- The 4096 bytes of memory (R34, R40), as a list of (address, byte) in the canonical form of
`Memory.wf` (Machine/Memory.lean). -/
abbrev Memory := List Host.Cell

/-- The 64 x 32 plane (R35), held as 32 row words of 64 bits (R139). Column x of row y is bit 63 - x of
row word y, so that the leftmost pixel is the most significant bit. DESIGN CHOICE (log entry 9): which
bit holds which column is not observable. -/
abbrev Framebuffer := Vector (BitVec 64) 32

/-- The host's random source (R88). `answers` are the bytes it is about to give, first one first;
`served` counts the bytes requested so far. When `answers` is empty the next byte is a free value
(`Config.randomByte`). The model's own field, not the core's (log entry 4). -/
structure RandomSource where
  answers : List Byte
  served : Nat
deriving DecidableEq, Repr

/-- The states of the dispatch state machine (R96), each with what it must remember of the request it
is carrying out. DEDUCED (log entry 6): the spec implies these latches and does not name them. -/
inductive Fsm where
  /-- IDLE: accepts one request -/
  | idle
  /-- FETCH_HI -/
  | fetchHi
  /-- FETCH_LO -/
  | fetchLo
  /-- DECODE -/
  | decode
  /-- EXECUTE -/
  | execute
  /-- CLEAR: about to clear framebuffer row `row` -/
  | clear (row : Fin 32)
  /-- COMMIT, with the random byte that EXECUTE got for a Cxkk -/
  | commit (byte : Option Byte)
  /-- FAULT -/
  | fault
  /-- LOAD_CHECK -/
  | loadCheck (start : Addr) (len : BitVec 13)
  /-- LOAD_WRITE: `sent` of `len` data beats taken -/
  | loadWrite (start : Addr) (len : BitVec 13) (sent : Nat)
  /-- READ -/
  | readOut (t : ReadTarget)
  /-- TIMER_WR -/
  | timerWr (t : Timer) (v : Byte)
  /-- DRAW_ROW: `sent` of `n` row beats taken, `erased` so far -/
  | drawRow (x y : Byte) (n : BitVec 4) (sent : Nat) (erased : Bool)
  /-- BAD_REQ -/
  | badReq
deriving DecidableEq, Repr

/-- Everything the spec gives the machine (R20, R37), the host's random source, and the parameter of R7. -/
structure State where
  /-- V0 to VF (R21) -/
  v : Vector Byte 16
  /-- the index register I (R25) -/
  i : Word
  /-- the program counter PC (R26) -/
  pc : Word
  /-- the delay timer DT (R28) -/
  dt : Byte
  /-- the sound timer ST (R28) -/
  st : Byte
  /-- the call stack's slots S[0] to S[15] (R29) -/
  stack : Vector Word 16
  /-- the stack count SC, 0 to 16 (R29, R30) -/
  sc : Fin 17
  /-- memory (R34) -/
  mem : Memory
  /-- the framebuffer (R35) -/
  fb : Framebuffer
  /-- IR, the transient opcode register (R37), hidden from programs and the host -/
  ir : Word
  /-- FSM, the dispatch state machine's state (R37, R96), hidden likewise -/
  fsm : Fsm
  /-- the host's random source (R88) -/
  rnd : RandomSource
  /-- EMPTY_POP_MODE (R7, R32): the parameter of the machine at hand. No instruction, transaction or clock
  edge changes it. The model's own field, not the core's state (log entry 5). -/
  popMode : Config.EmptyPopMode
deriving DecidableEq, Repr

/-- Why the machine stops with a fault. -/
inductive Fault where
  /-- Raised by `step` when the fetched word matches no entry of the handler table, with the word and
  zext_16(pc mod 4096) (R87, R141). No state changes, so a later STEP raises it again (R100). Safe: the
  spec reports the same failure; the transaction `Request.step` gives the state that goes on. -/
  | unknownOpcode (opcode addr : Word)
deriving DecidableEq, Repr

/-- Why the model gives no next state. -/
inductive Refusal where
  /-- Raised by an arm of `exec` whose instruction has no meaning yet; no arm raises it. Safe. -/
  | notModelled (mnemonic : String)
  /-- Raised by `step` in a state whose FSM is not IDLE: a request made while the core is busy is not
  seen (R165; 93_implementation_defined.md U11). Safe: no run of steps from reset meets it. -/
  | busy
deriving DecidableEq, Repr

/-- What a step and an instruction's meaning answer. -/
abbrev Result := Host.Outcome State Fault Refusal

/-- The machine right after reset (R39, R157): everything zero, the stack empty, PC = 0x0200, FSM IDLE.
IR's value is unspecified by R39: DESIGN CHOICE 0x0000 (log entry 3). The random source's: DESIGN CHOICE
(log entry 4). EMPTY_POP_MODE is this hardware's (R7). -/
def State.reset : State where
  v := Vector.replicate 16 0x00#8
  i := 0x0000#16
  pc := 0x0200#16
  dt := 0x00#8
  st := 0x00#8
  stack := Vector.replicate 16 0x0000#16
  sc := 0
  mem := []
  fb := Vector.replicate 32 0#64
  ir := 0x0000#16
  fsm := .idle
  rnd := ⟨[], 0⟩
  popMode := Config.emptyPopMode

end Sys2Proof.Machine
end

