-- ==== Sys2Proof/Machine/Memory.lean ====
section
/-! DEFINITION. Memory (20_memory.md): one byte at a key, the accesses MemRead and MemWrite of R48 and
R49, and the canonical form of the list that holds it. -/

namespace Sys2Proof.Machine

/-- What an address that the list does not name reads as: every memory byte is 0x00 at reset (R39). Log
entry 2. -/
def Memory.unlisted : Byte := 0x00#8

/-- The byte at a key of the list. -/
def Memory.read : Memory → Nat → Byte
  | [], _ => Memory.unlisted
  | (k, c) :: m, a => if k = a then c else Memory.read m a

/-- Put a byte at a key, keeping the canonical form: writing the unlisted value removes the entry. -/
def Memory.write : Memory → Nat → Byte → Memory
  | [], a, b => if b = Memory.unlisted then [] else [(a, b)]
  | (k, c) :: m, a, b =>
    if a < k then
      if b = Memory.unlisted then (k, c) :: m else (a, b) :: (k, c) :: m
    else if a = k then
      if b = Memory.unlisted then m else (a, b) :: m
    else (k, c) :: Memory.write m a b

/-- The canonical form: keys strictly rising and inside the memory (R40), no entry equal to what an
unlisted address reads as. Two memories in this form that read alike are equal. -/
abbrev Memory.wf (m : Memory) : Prop :=
  m.Pairwise (fun c d => c.1 < d.1) ∧
    ∀ c ∈ m, c.1 < Config.memSize ∧ c.2 ≠ Memory.unlisted

/-- Every byte access is reduced mod 4096 (R44). -/
def wrapAddr (a : Nat) : Nat := a % Config.memSize

/-- MemRead(a, 1) (R48). -/
def memRead1 (m : Memory) (a : Nat) : Byte := m.read (wrapAddr a)

/-- MemRead(a, 2): the high byte first (R48, R45). -/
def memRead2 (m : Memory) (a : Nat) : Word := wordOfBytes (memRead1 m a) (memRead1 m (a + 1))

/-- MemWrite(a, 1, v) (R49). -/
def memWrite1 (m : Memory) (a : Nat) (b : Byte) : Memory := m.write (wrapAddr a) b

/-- MemWrite(a, 2, v) (R49). -/
def memWrite2 (m : Memory) (a : Nat) (w : Word) : Memory :=
  memWrite1 (memWrite1 m a (hiByte w)) (a + 1) (loByte w)

/-- MemWrite(a + k, 1, data[k]) for k = 0, 1, …, in order: what a LOAD writes (R89). -/
def storeBytes : Memory → Nat → List Byte → Memory
  | m, _, [] => m
  | m, a, b :: bs => storeBytes (memWrite1 m a b) (a + 1) bs

end Sys2Proof.Machine
end

