-- ==== Sys2Proof/Machine/Ops.lean ====
section
/-! DEFINITION. The named operations over the state: reads and writes of its registers (00_scope.md rule
R10), the call stack (10_state.md rules R31, R32), the fetch (40_engine.md rule R82), the report of an
unknown opcode (60_exceptions.md rule R141) and the random byte (R88).

The core takes no exceptions: R148 and R149 (60_exceptions.md) say that there is no trap entry and no
trap return. `raiseUnknownOpcode` is the one failure of a STEP. -/

namespace Sys2Proof.Machine

/-! ## Writing one piece of state -/

/-- V[x] <- b (R10, R21). -/
def State.setV (x : RegIdx) (b : Byte) (s : State) : State :=
  { s with v := s.v.set x.toNat b x.isLt }

/-- I <- w -/
def State.setI (w : Word) (s : State) : State := { s with i := w }

/-- pc <- w -/
def State.setPc (w : Word) (s : State) : State := { s with pc := w }

/-- DT <- b -/
def State.setDt (b : Byte) (s : State) : State := { s with dt := b }

/-- ST <- b -/
def State.setSt (b : Byte) (s : State) : State := { s with st := b }

/-- S[k] <- w -/
def State.setSlot (k : RegIdx) (w : Word) (s : State) : State :=
  { s with stack := s.stack.set k.toNat w k.isLt }

/-- SC <- n -/
def State.setSc (n : Fin 17) (s : State) : State := { s with sc := n }

/-- Put another memory in the place of the present one. -/
def State.setMem (m : Memory) (s : State) : State := { s with mem := m }

/-- Put another plane in the place of the present one. -/
def State.setFb (f : Framebuffer) (s : State) : State := { s with fb := f }

/-- IR <- w (R37) -/
def State.setIr (w : Word) (s : State) : State := { s with ir := w }

/-- FSM <- f (R96) -/
def State.setFsm (f : Fsm) (s : State) : State := { s with fsm := f }

/-- Put the random source in another condition (R88). -/
def State.setRnd (r : RandomSource) (s : State) : State := { s with rnd := r }

/-- Another EMPTY_POP_MODE (R7): the parameter, not something the machine does. -/
def State.setPopMode (mode : Config.EmptyPopMode) (s : State) : State := { s with popMode := mode }

/-! ## Reading one piece of state -/

/-- V[x] (R10, R21). -/
def State.getV (s : State) (x : RegIdx) : Byte := s.v[x.toNat]'x.isLt

/-- S[k] (R29). -/
def State.slot (s : State) (k : RegIdx) : Word := s.stack[k.toNat]'k.isLt

/-- MEM[a mod 4096] (R44). -/
def State.byteAt (s : State) (a : Nat) : Byte := memRead1 s.mem a

/-! ## The program counter -/

/-- PC += 2, mod 2^16 (R15, R84). -/
def State.advance (s : State) : State := s.setPc (s.pc + 2#16)

/-- PC += 4, mod 2^16 (R15, R104). -/
def State.skip (s : State) : State := s.setPc (s.pc + 4#16)

/-- A conditional skip: PC += 4 when the condition holds, PC += 2 when it does not (R104). -/
def State.skipIf (c : Bool) (s : State) : State := if c then s.skip else s.advance

/-! ## The call stack -/

/-- Push(a) (R31): with the stack full the newest address overwrites S[15]. -/
def State.push (a : Word) (s : State) : State :=
  if h : s.sc.val < Config.stackDepth then
    (s.setSlot (BitVec.ofNat 4 s.sc.val) a).setSc ⟨s.sc.val + 1, Nat.succ_lt_succ h⟩
  else s.setSlot 0xF#4 a

/-- What a pop of an empty stack returns, by EMPTY_POP_MODE (R32). -/
def State.emptyPop (mode : Config.EmptyPopMode) (s : State) : Word :=
  match mode with
  | .zero => 0x0000#16
  | .slot0 => s.slot 0x0#4

/-- Pop() under a given EMPTY_POP_MODE (R32): the value and the state after. A slot keeps its value, and
an empty pop changes nothing. -/
def State.popWith (mode : Config.EmptyPopMode) (s : State) : Word × State :=
  if 0 < s.sc.val then
    (s.slot (BitVec.ofNat 4 (s.sc.val - 1)),
      s.setSc ⟨s.sc.val - 1, Nat.lt_of_le_of_lt (Nat.sub_le _ _) s.sc.isLt⟩)
  else (s.emptyPop mode, s)

/-! ## Fetch and its failure -/

/-- The fetched opcode: MemRead(pc, 2) (R82). -/
def State.fetch (s : State) : Word := memRead2 s.mem s.pc.toNat

/-- The fetch address a failure reports: zext_16(pc mod 4096) (R87). -/
def State.fetchAddr (s : State) : Word := BitVec.ofNat 16 (wrapAddr s.pc.toNat)

/-- raise UnknownOpcode(op, addr): the STEP ends with the report and no state change (R87, R141). -/
def raiseUnknownOpcode (op : Word) (s : State) : Result :=
  .fault (.unknownOpcode op s.fetchAddr)

/-- The core accepts a request exactly in IDLE (R95, R96). -/
def State.accepts (s : State) : Bool := decide (s.fsm = .idle)

/-! ## The random byte -/

/-- The byte the random source answers to the next request (R88): the host's first announced answer, and
where it has announced none, a free value. -/
def RandomSource.byte (r : RandomSource) : Byte :=
  match r.answers with
  | b :: _ => b
  | [] => Config.randomByte r.served

/-- The random source after one request (R88). -/
def RandomSource.afterRequest (r : RandomSource) : RandomSource :=
  ⟨r.answers.tail, r.served + 1⟩

/-- RndByte() (R12, R88): the byte this step gets. -/
def State.rndByte (s : State) : Byte := s.rnd.byte

/-- The state after the step's one request (R88). -/
def State.rndRequested (s : State) : State := s.setRnd s.rnd.afterRequest

/-- The host makes `b` the answer to the next request (R88: the source is substitutable; R98:
rnd_byte). -/
def State.offerRandom (b : Byte) (s : State) : State :=
  s.setRnd ⟨b :: s.rnd.answers, s.rnd.served⟩

/-! ## Reset -/

/-- RESET (R94, R157): every piece of the core's state takes its reset value, from any state. The
random source is the host's and is left as it is (log entry 8), and a parameter is no state (R7). -/
def State.resetCore (s : State) : State := (State.reset.setRnd s.rnd).setPopMode s.popMode

end Sys2Proof.Machine
end

