-- ==== Sys2Proof/Machine/Operands.lean ====
section
/-! DEFINITION. The operand forms (30_encoding.md rules R67 to R70). Every operand is read from the
state before the instruction (00_scope.md rule R13). -/

namespace Sys2Proof.Machine

/-- nnn where it is written to PC or I, or the start of a LOAD where it is written to PC: zext_16 (R67,
R89). -/
def zext16 (nnn : Addr) : Word := nnn.setWidth 16

/-- kk is used as it is (R68). -/
def operandByte (kk : Byte) : Byte := kk

/-- Operand Vx or Vy (R69). -/
def operandReg (s : State) (x : RegIdx) : Byte := s.getV x

/-- The target of Bnnn: zext_16((nnn + V0) mod 4096) (R67, R110). -/
def operandIndexed (s : State) (nnn : Addr) : Word :=
  BitVec.ofNat 16 ((nnn.toNat + (s.getV 0x0#4).toNat) % Config.memSize)

/-- The return address of a CALL: (pc + 2) mod 2^16 (R103). -/
def returnAddress (s : State) : Word := s.pc + 2#16

end Sys2Proof.Machine
end

