-- ==== Sys2Proof/Machine/Alu.lean ====
section
/-! DEFINITION. Register loads, arithmetic, logic, shifts, index load and random (42_alu.md). Each is
sequential: it ends with PC + 2 (40_engine.md rule R84). Arithmetic is exact on the integers and then
reduced mod 256 (R125). -/

namespace Sys2Proof.Machine

/-! ## Results -/

/-- (a + b) mod 256 (R113, R118). -/
def addByte (a b : Byte) : Byte := BitVec.ofNat 8 (a.toNat + b.toNat)

/-- (a - b) mod 256 (R119, R121). -/
def subByte (a b : Byte) : Byte := BitVec.ofInt 8 ((a.toNat : Int) - (b.toNat : Int))

/-- a >> 1, a zero bit coming in (R120, R9). -/
def shrByte (a : Byte) : Byte := a >>> 1

/-- (a << 1) mod 256 (R122). -/
def shlByte (a : Byte) : Byte := a <<< 1

/-! ## Commits -/

/-- The commit of an instruction that writes Vx only. -/
def commitReg (x : RegIdx) (r : Byte) (s : State) : Result := .next (s.setV x r).advance

/-- The commit of an instruction that writes Vx and then VF: with x = 0xF the flag remains (R24,
R118). -/
def commitRegFlag (x : RegIdx) (r flag : Byte) (s : State) : Result :=
  .next ((s.setV x r).setV regVF flag).advance

/-- The commit of an instruction that writes VF and then Vx: with x = 0xF the result remains (R24, R119
to R122). -/
def commitFlagReg (x : RegIdx) (r flag : Byte) (s : State) : Result :=
  .next ((s.setV regVF flag).setV x r).advance

/-! ## The instructions -/

/-- 6xkk LD Vx, byte (R112). -/
def execLdByte (x : RegIdx) (kk : Byte) (s : State) : Result := commitReg x (operandByte kk) s

/-- 7xkk ADD Vx, byte (R113): no flag. -/
def execAddByte (x : RegIdx) (kk : Byte) (s : State) : Result :=
  commitReg x (addByte (operandReg s x) (operandByte kk)) s

/-- 8xy0 LD Vx, Vy (R114). -/
def execLdReg (x y : RegIdx) (s : State) : Result := commitReg x (operandReg s y) s

/-- 8xy1 OR Vx, Vy (R115): VF is not reset. -/
def execOrReg (x y : RegIdx) (s : State) : Result :=
  commitReg x (operandReg s x ||| operandReg s y) s

/-- 8xy2 AND Vx, Vy (R116): VF is not reset. -/
def execAndReg (x y : RegIdx) (s : State) : Result :=
  commitReg x (operandReg s x &&& operandReg s y) s

/-- 8xy3 XOR Vx, Vy (R117): VF is not reset. -/
def execXorReg (x y : RegIdx) (s : State) : Result :=
  commitReg x (operandReg s x ^^^ operandReg s y) s

/-- 8xy4 ADD Vx, Vy (R118): the carry is written last. -/
def execAddReg (x y : RegIdx) (s : State) : Result :=
  commitRegFlag x (addByte (operandReg s x) (operandReg s y))
    (carryFlag (operandReg s x) (operandReg s y)) s

/-- 8xy5 SUB Vx, Vy (R119): the difference is written last. -/
def execSubReg (x y : RegIdx) (s : State) : Result :=
  commitFlagReg x (subByte (operandReg s x) (operandReg s y))
    (noBorrowFlag (operandReg s x) (operandReg s y)) s

/-- 8xy6 SHR Vx (R120): Vy is never read; the result is written last. -/
def execShr (x _y : RegIdx) (s : State) : Result :=
  commitFlagReg x (shrByte (operandReg s x)) (shrFlag (operandReg s x)) s

/-- 8xy7 SUBN Vx, Vy (R121): the difference is written last. -/
def execSubnReg (x y : RegIdx) (s : State) : Result :=
  commitFlagReg x (subByte (operandReg s y) (operandReg s x))
    (noBorrowFlag (operandReg s y) (operandReg s x)) s

/-- 8xyE SHL Vx (R122): Vy is never read; the result is written last. -/
def execShl (x _y : RegIdx) (s : State) : Result :=
  commitFlagReg x (shlByte (operandReg s x)) (shlFlag (operandReg s x)) s

/-- Annn LD I, addr (R123). -/
def execLdI (nnn : Addr) (s : State) : Result := .next (s.setI (zext16 nnn)).advance

/-- Cxkk RND Vx, byte (R124): one byte is requested, whatever kk is. -/
def execRnd (x : RegIdx) (kk : Byte) (s : State) : Result :=
  commitReg x (s.rndByte &&& operandByte kk) s.rndRequested

end Sys2Proof.Machine
end

