-- ==== Sys2Proof/Machine/ControlFlow.lean ====
section
/-! DEFINITION. Control transfer (41_control_flow.md). Each of these sets PC itself and gets no further
+2 (40_engine.md rule R85). -/

namespace Sys2Proof.Machine

/-- RET under a given EMPTY_POP_MODE: pc <- Pop() (R101, R32). -/
def returnWith (mode : Config.EmptyPopMode) (s : State) : State :=
  (s.popWith mode).2.setPc (s.popWith mode).1

/-- 00EE RET (R101), under the machine's EMPTY_POP_MODE (R7, R32). -/
def execRet (s : State) : Result := .next (returnWith s.popMode s)

/-- 1nnn JP addr (R102). -/
def execJp (nnn : Addr) (s : State) : Result := .next (s.setPc (zext16 nnn))

/-- 2nnn CALL addr (R103). -/
def execCall (nnn : Addr) (s : State) : Result :=
  .next ((s.push (returnAddress s)).setPc (zext16 nnn))

/-- 3xkk SE Vx, byte (R105). -/
def execSeByte (x : RegIdx) (kk : Byte) (s : State) : Result :=
  .next (s.skipIf (operandReg s x == operandByte kk))

/-- 4xkk SNE Vx, byte (R106). -/
def execSneByte (x : RegIdx) (kk : Byte) (s : State) : Result :=
  .next (s.skipIf (operandReg s x != operandByte kk))

/-- 5xy0 SE Vx, Vy (R107). -/
def execSeReg (x y : RegIdx) (s : State) : Result :=
  .next (s.skipIf (operandReg s x == operandReg s y))

/-- 9xy0 SNE Vx, Vy (R108). -/
def execSneReg (x y : RegIdx) (s : State) : Result :=
  .next (s.skipIf (operandReg s x != operandReg s y))

/-- Bnnn JP V0, addr (R110). -/
def execJpV0 (nnn : Addr) (s : State) : Result := .next (s.setPc (operandIndexed s nnn))

end Sys2Proof.Machine
end

