-- ==== Sys2Proof/Machine/Display.lean ====
section
/-! DEFINITION. The framebuffer, the XOR sprite rasterizer and CLS (43_display.md). -/

namespace Sys2Proof.Machine

/-- Columns wrap mod 64 (R130, R132). -/
def wrapX (x : Nat) : Nat := x % Config.screenW

/-- Rows wrap mod 32 (R130, R132). -/
def wrapY (y : Nat) : Nat := y % Config.screenH

theorem wrapX_lt (x : Nat) : wrapX x < 64 := Nat.mod_lt x (by decide)

theorem wrapY_lt (y : Nat) : wrapY y < 32 := Nat.mod_lt y (by decide)

/-- The row word that holds row y mod 32 (R139). -/
def Framebuffer.rowWord (f : Framebuffer) (y : Nat) : BitVec 64 :=
  f[wrapY y]'(wrapY_lt y)

/-- Put a row word in the place of the present one. -/
def Framebuffer.setRow (f : Framebuffer) (y : Nat) (w : BitVec 64) : Framebuffer :=
  f.set (wrapY y) w (wrapY_lt y)

/-- FbGet(x, y) = FB[x mod 64][y mod 32] (R130). -/
def fbGet (f : Framebuffer) (x y : Nat) : Bool := (f.rowWord y).getMsbD (wrapX x)

/-- FB[x][y] <- FB[x][y] ^ 1 (R132). -/
def fbFlip (f : Framebuffer) (x y : Nat) : Framebuffer :=
  f.setRow y (f.rowWord y ^^^ BitVec.twoPow 64 (63 - wrapX x))

/-- FbClear() (R131). -/
def fbClear : Framebuffer := Vector.replicate 32 0#64

/-- The inner step of R132: sprite bit b of a row (b = 0 the leftmost, bit 7 of the byte) at column
x0 + b of row yy. A 0 bit leaves its pixel; a 1 bit flips it, and erases when it was 1. -/
def drawBit (row : Byte) (x0 yy : Nat) (acc : Framebuffer × Bool) (b : Nat) : Framebuffer × Bool :=
  if row.getLsbD (7 - b) then
    (fbFlip acc.1 (x0 + b) yy, acc.2 || fbGet acc.1 (x0 + b) yy)
  else acc

/-- The 8 bits of one sprite row (R132). -/
def drawRow (row : Byte) (x0 yy : Nat) (acc : Framebuffer × Bool) : Framebuffer × Bool :=
  (List.range 8).foldl (drawBit row x0 yy) acc

/-- The rows of a sprite from row r on (R132). -/
def drawRows (x0 y0 : Nat) : Nat → List Byte → Framebuffer × Bool → Framebuffer × Bool
  | _, [], acc => acc
  | r, row :: rows, acc => drawRows x0 y0 (r + 1) rows (drawRow row x0 (wrapY (y0 + r)) acc)

/-- FbDraw(x, y, rows): the plane after the draw, and did_erase (R132). -/
def fbDraw (f : Framebuffer) (x y : Nat) (rows : List Byte) : Framebuffer × Bool :=
  drawRows (wrapX x) (wrapY y) 0 rows (f, false)

/-! ## The rasterizer's organisation by row words (R139) -/

/-- M: the row byte at columns x0 to x0 + 7 mod 64, a rotation of the byte placed at columns 0 to 7
(R139). -/
def rowMask (row : Byte) (x0 : Nat) : BitVec 64 := (row ++ 0#56 : BitVec 64).rotateRight x0

/-- One row beat (R139): the plane with row yy replaced by `row ^ M`, and the erase bit
`(row & M) != 0`. -/
def rowBeat (f : Framebuffer) (row : Byte) (x0 yy : Nat) : Framebuffer × Bool :=
  (f.setRow yy (f.rowWord yy ^^^ rowMask row x0), f.rowWord yy &&& rowMask row x0 != 0#64)

/-- The rows of a sprite, one row beat each, from row r on (R139). -/
def beatRows (x0 y0 : Nat) : Nat → List Byte → Framebuffer × Bool → Framebuffer × Bool
  | _, [], acc => acc
  | r, row :: rows, acc =>
    beatRows x0 y0 (r + 1) rows
      ((rowBeat acc.1 row x0 (wrapY (y0 + r))).1,
        acc.2 || (rowBeat acc.1 row x0 (wrapY (y0 + r))).2)

/-! ## The instruction -/

/-- 00E0 CLS (R135). -/
def execCls (s : State) : Result := .next (s.setFb fbClear).advance

end Sys2Proof.Machine
end

