-- ==== Sys2Proof/Machine/Step.lean ====
section
/-! DEFINITION. The STEP transaction (40_engine.md rule R81): fetch, decode, execute and commit of
exactly one instruction. -/

namespace Sys2Proof.Machine

/-- One STEP (R81). The fetched word goes to the hidden IR (R82); an unknown opcode ends the step with
its report (R87); otherwise the instruction runs on the state before it. A state whose FSM is not IDLE
accepts no request (R95, R165; log entry 11). -/
def step (s : State) : Host.Outcome State Fault Refusal :=
  if s.accepts then
    match decodeWord s.fetch with
    | some i => exec i (s.setIr s.fetch)
    | none => raiseUnknownOpcode s.fetch s
  else .refused .busy

/-- `s` with the instruction whose bits are `w` (`nbits` of them) in the two bytes the next STEP fetches,
and ready to accept that STEP. -/
def State.withFetchWord (s : State) (nbits w : Nat) : State :=
  (s.setMem (memWrite2 s.mem s.pc.toNat (BitVec.ofNat 16 (w % 2 ^ nbits)))).setFsm .idle

end Sys2Proof.Machine
end

