-- ==== Sys2Proof/Machine/Signals.lean ====
section
/-! DEFINITION. The ports of the signal-level binding (40_engine.md rule R98) and the coding of requests
and responses on them (R98; 60_exceptions.md rule R145). -/

namespace Sys2Proof.Machine

/-- The input ports, as sampled at a rising edge of clk (R98). -/
structure PinsIn where
  rst : Bool
  reqValid : Bool
  reqOp : BitVec 3
  reqSel : BitVec 4
  reqA : Word
  reqB : Word
  datValid : Bool
  datByte : Byte
  rndValid : Bool
  rndByte : Byte
deriving DecidableEq, Repr

/-- The output ports (R98). -/
structure PinsOut where
  reqReady : Bool
  datReady : Bool
  rspValid : Bool
  rspStatus : BitVec 2
  rspData : Word
  rspAddr : Word
  rndReq : Bool
deriving DecidableEq, Repr

/-- READ: req_sel 0 V, 1 I, 2 PC, 3 DT, 4 ST, 5 SC, 6 S, 7 MEM, 8 FB, 9 to 15 BAD_REQUEST; the register
index in req_a bits 3:0, the memory address in bits 11:0, FB x in req_a bits 7:0 and FB y in req_b bits
7:0 (R98). -/
def readTargetOfPins (sel : BitVec 4) (a b : Word) : Option ReadTarget :=
  if sel = 0#4 then some (.v (a.extractLsb' 0 4))
  else if sel = 1#4 then some .i
  else if sel = 2#4 then some .pc
  else if sel = 3#4 then some .dt
  else if sel = 4#4 then some .st
  else if sel = 5#4 then some .sc
  else if sel = 6#4 then some (.slot (a.extractLsb' 0 4))
  else if sel = 7#4 then some (.mem ((a.extractLsb' 0 12).setWidth 16))
  else if sel = 8#4 then some (.fb (a.extractLsb' 0 8) (b.extractLsb' 0 8))
  else none

/-- WRITE_TIMER: req_sel 0 DT, 1 ST, 2 to 15 BAD_REQUEST (R98). -/
def timerOfPins (sel : BitVec 4) : Option Timer :=
  if sel = 0#4 then some .dt else if sel = 1#4 then some .st else none

/-- Where IDLE goes by the request on the ports (R96, R98): req_op 0 STEP, 1 LOAD, 2 READ, 3
WRITE_TIMER, 4 DRAW, 5 to 7 reserved. LOAD has start in req_a bits 11:0 and len in req_b bits 12:0;
WRITE_TIMER its value in req_a bits 7:0; DRAW x in req_a bits 7:0, y in req_b bits 7:0 and the row
count in req_sel. -/
def acceptedFsm (p : PinsIn) : Fsm :=
  if p.reqOp = 0#3 then .fetchHi
  else if p.reqOp = 1#3 then .loadCheck (p.reqA.extractLsb' 0 12) (p.reqB.extractLsb' 0 13)
  else if p.reqOp = 2#3 then
    match readTargetOfPins p.reqSel p.reqA p.reqB with
    | some t => .readOut t
    | none => .badReq
  else if p.reqOp = 3#3 then
    match timerOfPins p.reqSel with
    | some t => .timerWr t (p.reqA.extractLsb' 0 8)
    | none => .badReq
  else if p.reqOp = 4#3 then
    .drawRow (p.reqA.extractLsb' 0 8) (p.reqB.extractLsb' 0 8) p.reqSel 0 false
  else .badReq

/-- rsp_valid: every response but those of a RESET and of a request not seen (R97, R98). -/
def Response.valid : Response → Bool
  | .noResponse => false
  | .notSeen => false
  | .ok => true
  | .value _ => true
  | .didErase _ => true
  | .unknownOpcode _ _ => true
  | .loadTooLarge => true
  | .badRequest => true

/-- rsp_status: 0 OK, 1 UNKNOWN_OPCODE, 2 LOAD_TOO_LARGE, 3 BAD_REQUEST (R98, R145). Where nothing is
answered R98 gives it no value: DESIGN CHOICE 0 (log entry 18). -/
def Response.status : Response → BitVec 2
  | .noResponse => 0#2
  | .notSeen => 0#2
  | .ok => 0#2
  | .value _ => 0#2
  | .didErase _ => 0#2
  | .unknownOpcode _ _ => 1#2
  | .loadTooLarge => 2#2
  | .badRequest => 3#2

/-- rsp_data: READ's value, DRAW's did_erase in bit 0, the unknown opcode, otherwise 0 (R98). -/
def Response.data : Response → Word
  | .noResponse => 0#16
  | .notSeen => 0#16
  | .ok => 0#16
  | .value v => v
  | .didErase b => if b then 1#16 else 0#16
  | .unknownOpcode op _ => op
  | .loadTooLarge => 0#16
  | .badRequest => 0#16

/-- rsp_addr: the address an unknown opcode was fetched from, otherwise 0 (R98). -/
def Response.addr : Response → Word
  | .noResponse => 0#16
  | .notSeen => 0#16
  | .ok => 0#16
  | .value _ => 0#16
  | .didErase _ => 0#16
  | .unknownOpcode _ a => a
  | .loadTooLarge => 0#16
  | .badRequest => 0#16

end Sys2Proof.Machine
end

