-- ==== Sys2Proof/WellFormed.lean ====
section
/-! DEFINITION. Which instructions and which host requests are well formed.

An instruction's operands have the widths of their fields, so the checks below, which say the bounds of
R67, R68 and R69 in numbers, hold of every `Instr`: no ill-formed instruction can be written down. A
host request can be ill formed: R80 bounds the rows of a DRAW, and a reserved code or selector is no
request at all (R98). -/

namespace Sys2Proof

/-- R69: every index 0x0 to 0xF is legal. -/
abbrev RegIdx.fits (x : RegIdx) : Bool := decide (x.toNat < 16)

/-- R68: kk is an unsigned byte. -/
abbrev Byte.fits (kk : Byte) : Bool := decide (kk.toNat < 256)

/-- R67: nnn is an unsigned 12-bit address. -/
abbrev Addr.fits (nnn : Addr) : Bool := decide (nnn.toNat < Config.memSize)

/-- The operand bounds of the formats of R66. -/
def Instr.wellFormed : Instr → Bool
  | .cls => true
  | .ret => true
  | .jp nnn => Addr.fits nnn
  | .call nnn => Addr.fits nnn
  | .seByte x kk => RegIdx.fits x && Byte.fits kk
  | .sneByte x kk => RegIdx.fits x && Byte.fits kk
  | .seReg x y => RegIdx.fits x && RegIdx.fits y
  | .ldByte x kk => RegIdx.fits x && Byte.fits kk
  | .addByte x kk => RegIdx.fits x && Byte.fits kk
  | .ldReg x y => RegIdx.fits x && RegIdx.fits y
  | .orReg x y => RegIdx.fits x && RegIdx.fits y
  | .andReg x y => RegIdx.fits x && RegIdx.fits y
  | .xorReg x y => RegIdx.fits x && RegIdx.fits y
  | .addReg x y => RegIdx.fits x && RegIdx.fits y
  | .subReg x y => RegIdx.fits x && RegIdx.fits y
  | .shr x y => RegIdx.fits x && RegIdx.fits y
  | .subnReg x y => RegIdx.fits x && RegIdx.fits y
  | .shl x y => RegIdx.fits x && RegIdx.fits y
  | .sneReg x y => RegIdx.fits x && RegIdx.fits y
  | .ldI nnn => Addr.fits nnn
  | .jpV0 nnn => Addr.fits nnn
  | .rnd x kk => RegIdx.fits x && Byte.fits kk

/-- The requests of R80. A LOAD of any length is one: an overlong LOAD is answered LOAD_TOO_LARGE, not
BAD_REQUEST (R90, R98). -/
def Machine.Request.wellFormed : Machine.Request → Bool
  | .reset => true
  | .load _ _ => true
  | .step => true
  | .read _ => true
  | .writeTimer _ _ => true
  | .draw _ _ rows => decide (rows.length ≤ Config.spriteRowsMax)
  | .malformed => false

end Sys2Proof
end

