-- ==== Sys2Proof/Machine/Transactions.lean ====
section
/-! DEFINITION. The host's transactions (40_engine.md rules R80, R89 to R95): what each answers and the
state it leaves. -/

namespace Sys2Proof.Machine

/-- Where a LOAD begins: at the start the host names, by default at 0x200 (R55, R80). -/
def loadStart (start : Option Addr) : Addr := start.getD Config.loadDefaultStart

/-- LOAD is accepted when start + len <= 4096 (R89, R90). -/
def loadFits (start : Addr) (len : Nat) : Bool := decide (start.toNat + len ≤ Config.memSize)

/-- What an accepted LOAD does (R89): the bytes, PC := zext_16(start), SC := 0, and nothing else. -/
def State.load (start : Addr) (data : List Byte) (s : State) : State :=
  ((s.setMem (storeBytes s.mem start.toNat data)).setPc (zext16 start)).setSc 0

/-- READ's value, zero-extended to 16 bits (R91, R98). -/
def State.readTarget (t : ReadTarget) (s : State) : Word :=
  match t with
  | .v k => (s.getV k).setWidth 16
  | .i => s.i
  | .pc => s.pc
  | .dt => s.dt.setWidth 16
  | .st => s.st.setWidth 16
  | .sc => BitVec.ofNat 16 s.sc.val
  | .slot k => s.slot k
  | .mem a => (s.byteAt a.toNat).setWidth 16
  | .fb x y => if fbGet s.fb x.toNat y.toNat then 1#16 else 0#16

/-- WRITE_TIMER(t, v) (R92). -/
def State.writeTimer (t : Timer) (v : Byte) (s : State) : State :=
  match t with
  | .dt => s.setDt v
  | .st => s.setSt v

/-- DRAW(x, y, rows) (R93): the rasterizer, and nothing else. -/
def State.draw (x y : Byte) (rows : List Byte) (s : State) : Response × State :=
  (.didErase (fbDraw s.fb x.toNat y.toNat rows).2, s.setFb (fbDraw s.fb x.toNat y.toNat rows).1)

/-- The response of a STEP and the state after it (R81, R87). After a failed STEP only the hidden IR
holds another value (R82); the core keeps no record of the failure and can be stepped again (R100,
R148). -/
def State.stepTransaction (s : State) : Response × State :=
  match step s with
  | .next t => (.ok, t)
  | .fault (.unknownOpcode op addr) => (.unknownOpcode op addr, s.setIr op)
  | .refused _ => (.notSeen, s)

/-- A transaction the core has accepted (R80). -/
def State.serve (r : Request) (s : State) : Response × State :=
  match r with
  | .reset => (.noResponse, s.resetCore)
  | .load start data =>
    if loadFits (loadStart start) data.length then (.ok, s.load (loadStart start) data)
    else (.loadTooLarge, s)
  | .step => s.stepTransaction
  | .read t => (.value (s.readTarget t), s)
  | .writeTimer t v => (.ok, s.writeTimer t v)
  | .draw x y rows => s.draw x y rows
  | .malformed => (.badRequest, s)

/-- One transaction (R80, R95). RESET is taken in any state (R97); any other request is seen only in
IDLE (R165); a request that is not well formed is answered BAD_REQUEST before any other check and
changes nothing (R143, R147). -/
def State.transact (r : Request) (s : State) : Response × State :=
  if r = .reset then s.serve r
  else if !s.accepts then (.notSeen, s)
  else if r.wellFormed then s.serve r
  else (.badRequest, s)

/-- A sequence of transactions, in order (R58): the responses and the state after the last. -/
def State.transactAll : List Request → State → List Response × State
  | [], s => ([], s)
  | r :: rs, s =>
    ((s.transact r).1 :: (State.transactAll rs (s.transact r).2).1,
      (State.transactAll rs (s.transact r).2).2)

end Sys2Proof.Machine
end

