-- ==== Sys2Proof/Machine/Clock.lean ====
section
/-! DEFINITION. The dispatch state machine (40_engine.md rule R96) on the ports of R98, one rising edge
of clk at a time. Cycle counts are not architectural (R3, R98, R167); log entry 7 says in which cycle
the model drives each output. -/

namespace Sys2Proof.Machine

/-- The random byte is requested in EXECUTE of a Cxkk and nowhere else (R88, R96). -/
def State.requestsRandom (s : State) : Bool :=
  match s.fsm, decodeWord s.ir with
  | .execute, some (.rnd _ _) => true
  | _, _ => false

/-- Where EXECUTE goes (R96): CLEAR for 00E0, COMMIT otherwise, once the random byte of a Cxkk has
arrived (R88). -/
def State.clockExecute (p : PinsIn) (s : State) : State :=
  match decodeWord s.ir with
  | some .cls => s.setFsm (.clear 0)
  | some (.rnd _ _) => if p.rndValid then s.setFsm (.commit (some p.rndByte)) else s
  | _ => s.setFsm (.commit none)

/-- The byte the random source has answered, if any, is the one the instruction gets (R88). -/
def State.answered (byte : Option Byte) (s : State) : State :=
  match byte with
  | some b => s.offerRandom b
  | none => s

/-- COMMIT (R96): the writes of the instruction, all in one cycle, then IDLE. -/
def State.clockCommit (byte : Option Byte) (s : State) : State :=
  match decodeWord s.ir with
  | some i =>
    match exec i (s.answered byte) with
    | .next t => t.setFsm .idle
    | .fault _ => s.setFsm .idle
    | .refused _ => s.setFsm .idle
  | none => s.setFsm .idle

/-- LOAD_WRITE (R96): one byte per accepted data beat; after the last beat, or at once when len = 0, PC
:= zext_16(start) and SC := 0. -/
def State.clockLoadWrite (start : Addr) (len : BitVec 13) (sent : Nat) (p : PinsIn) (s : State) :
    State :=
  if sent < len.toNat then
    if p.datValid then
      (s.setMem (memWrite1 s.mem (start.toNat + sent) p.datByte)).setFsm
        (.loadWrite start len (sent + 1))
    else s
  else ((s.setPc (zext16 start)).setSc 0).setFsm .idle

/-- DRAW_ROW (R96, R139): one row per accepted row beat. -/
def State.clockDrawRow (x y : Byte) (n : BitVec 4) (sent : Nat) (erased : Bool) (p : PinsIn)
    (s : State) : State :=
  if sent < n.toNat then
    if p.datValid then
      (s.setFb (rowBeat s.fb p.datByte (wrapX x.toNat) (wrapY (wrapY y.toNat + sent))).1).setFsm
        (.drawRow x y n (sent + 1)
          (erased || (rowBeat s.fb p.datByte (wrapX x.toNat) (wrapY (wrapY y.toNat + sent))).2))
    else s
  else s.setFsm .idle

/-- One rising edge of clk with rst low (R96). -/
def State.clockEdge (p : PinsIn) (s : State) : State :=
  match s.fsm with
  | .idle => if p.reqValid then s.setFsm (acceptedFsm p) else s
  | .fetchHi => (s.setIr (wordOfBytes (s.byteAt s.pc.toNat) (loByte s.ir))).setFsm .fetchLo
  | .fetchLo => (s.setIr (wordOfBytes (hiByte s.ir) (s.byteAt (s.pc.toNat + 1)))).setFsm .decode
  | .decode => s.setFsm (if (decodeWord s.ir).isSome then .execute else .fault)
  | .execute => s.clockExecute p
  | .clear row =>
    (s.setFb (s.fb.setRow row.val 0#64)).setFsm
      (if h : row.val + 1 < 32 then .clear ⟨row.val + 1, h⟩ else .commit none)
  | .commit byte => s.clockCommit byte
  | .fault => s.setFsm .idle
  | .loadCheck start len =>
    s.setFsm (if loadFits start len.toNat then .loadWrite start len 0 else .idle)
  | .loadWrite start len sent => s.clockLoadWrite start len sent p
  | .readOut _ => s.setFsm .idle
  | .timerWr t v => (s.writeTimer t v).setFsm .idle
  | .drawRow x y n sent erased => s.clockDrawRow x y n sent erased p
  | .badReq => s.setFsm .idle

/-- What the core answers in the present cycle, if it answers (R96): each transaction answers once, in
its last cycle. -/
def State.clockResponse (s : State) : Response :=
  match s.fsm with
  | .idle => .noResponse
  | .fetchHi => .noResponse
  | .fetchLo => .noResponse
  | .decode => .noResponse
  | .execute => .noResponse
  | .clear _ => .noResponse
  | .commit _ => .ok
  | .fault => .unknownOpcode s.ir s.fetchAddr
  | .loadCheck start len => if loadFits start len.toNat then .noResponse else .loadTooLarge
  | .loadWrite _ len sent => if sent < len.toNat then .noResponse else .ok
  | .readOut t => .value (s.readTarget t)
  | .timerWr _ _ => .ok
  | .drawRow _ _ n sent erased => if sent < n.toNat then .noResponse else .didErase erased
  | .badReq => .badRequest

/-- dat_ready: a LOAD or DRAW that still has beats to take (R96, R98). -/
def State.takesBeat (s : State) : Bool :=
  match s.fsm with
  | .loadWrite _ len sent => decide (sent < len.toNat)
  | .drawRow _ _ n sent _ => decide (sent < n.toNat)
  | _ => false

/-- The output ports in the present cycle (R98). While rst is high no response is given (R97). DESIGN
CHOICE (log entry 18), since R98 does not state it: rsp_status is 0 in a cycle in which no response is
due, and rsp_status, rsp_data and rsp_addr keep the abandoned response's values in a cycle in which rst
suppresses one. -/
def State.pinsOut (p : PinsIn) (s : State) : PinsOut where
  reqReady := s.accepts
  datReady := s.takesBeat
  rspValid := !p.rst && s.clockResponse.valid
  rspStatus := s.clockResponse.status
  rspData := s.clockResponse.data
  rspAddr := s.clockResponse.addr
  rndReq := s.requestsRandom

/-- One rising edge of clk (R98): rst forces the reset state from any state (R97, R157). -/
def State.tick (p : PinsIn) (s : State) : State :=
  if p.rst then s.resetCore else s.clockEdge p

/-- A sequence of rising edges, and the output ports in the cycle before each. -/
def State.ticks : List PinsIn → State → List PinsOut × State
  | [], s => ([], s)
  | p :: ps, s =>
    (s.pinsOut p :: (State.ticks ps (s.tick p)).1, (State.ticks ps (s.tick p)).2)

end Sys2Proof.Machine
end

