-- ==== Sys2Proof/Safety.lean ====
section
/-! DEFINITION. The terms in which claims are made: the invariant of the machine, safe runs, and the
states transactions can reach. -/

namespace Sys2Proof

open Machine

/-- A transaction in progress stays within what it was accepted for: a LOAD that passed LOAD_CHECK fits
(R90, R96), and no more beats are taken than the request named (R98). -/
def Machine.Fsm.Inv : Fsm → Prop
  | .loadWrite start len sent => start.toNat + len.toNat ≤ Config.memSize ∧ sent ≤ len.toNat
  | .drawRow _ _ n sent _ => sent ≤ n.toNat
  | _ => True

/-- What holds in every state the machine can be in: memory in its canonical form, I at most 0x0FFF
(R25), and the transaction in progress within its bounds. (SC at most 16, R30, holds by the type of
`sc`.) -/
structure Inv (s : State) : Prop where
  mem_wf : s.mem.wf
  i_lt : s.i.toNat < 0x1000
  fsm_ok : s.fsm.Inv

/-- The STEP completes: it neither fails nor is refused. -/
def StepCompletes (s : State) : Prop := ∃ t, step s = .next t

/-- A run of k STEPs that all complete. -/
def SafeRun (k : Nat) (s : State) : Prop := ∃ t, Host.Core.run core k s = .next t

/-- `t` is reached from `s` by host transactions. -/
def Reaches (s t : State) : Prop := ∃ rs : List Request, (State.transactAll rs s).2 = t

end Sys2Proof
end

