-- ==== Sys2Proof/Certificates/Slice0/Obligations.lean ====
section
/-! DEFINITION. The statements for the provers. First the terms they share: how an encoding is stated,
what it is for a part of the state to stay as it was, and the pins of the clocked statements. -/

namespace Sys2Proof.Claims

open Machine

/-! ## Terms -/

/-- The encoding of an instruction: every word whose masked bits are the pattern decodes to it. -/
def DecodesAs (mask pattern : Word) (i : Word → Instr) : Prop :=
  ∀ op : Word, op &&& mask = pattern → decodeWord op = some (i op)

/-- op[11:8], op[7:4], op[7:0] and op[11:0] (R8, R65). -/
abbrev bits11to8 (op : Word) : RegIdx := op.extractLsb 11 8
abbrev bits7to4 (op : Word) : RegIdx := op.extractLsb 7 4
abbrev bits7to0 (op : Word) : Byte := op.extractLsb 7 0
abbrev bits11to0 (op : Word) : Addr := op.extractLsb 11 0

/-- PC rises by n, mod 2^16 (R15). -/
def PcRises (n : Nat) (s t : State) : Prop := t.pc.toNat = (s.pc.toNat + n) % 2 ^ 16

/-- Every V register but those of a list is unchanged. -/
def RegsSameBut (xs : List RegIdx) (s t : State) : Prop := ∀ r, r ∉ xs → t.getV r = s.getV r

/-- SC and every slot are unchanged. -/
def StackSame (s t : State) : Prop := t.sc = s.sc ∧ ∀ k, t.slot k = s.slot k

/-- Every pixel is unchanged. -/
def PixelsSame (s t : State) : Prop := ∀ x y, fbGet t.fb x y = fbGet s.fb x y

/-- Every byte of memory reads as before. -/
def MemSame (s t : State) : Prop := ∀ a, t.byteAt a = s.byteAt a

/-- What no instruction changes: the timers, memory, the hidden registers IR and FSM, and the parameter
EMPTY_POP_MODE. -/
def OthersSame (s t : State) : Prop :=
  t.dt = s.dt ∧ t.st = s.st ∧ MemSame s t ∧ t.ir = s.ir ∧ t.fsm = s.fsm ∧ t.popMode = s.popMode

/-- What an instruction that only writes V registers and PC leaves: I, the stack, the plane, the random
source and the rest. -/
def OnlyRegsAndPc (s t : State) : Prop :=
  t.i = s.i ∧ StackSame s t ∧ PixelsSame s t ∧ t.rnd = s.rnd ∧ OthersSame s t

/-- What an instruction that only writes PC leaves. -/
def OnlyPc (s t : State) : Prop := RegsSameBut [] s t ∧ OnlyRegsAndPc s t

/-- What an instruction that only writes PC and the stack leaves. -/
def OnlyStackAndPc (s t : State) : Prop :=
  RegsSameBut [] s t ∧ t.i = s.i ∧ PixelsSame s t ∧ t.rnd = s.rnd ∧ OthersSame s t

/-- The sequential instructions of R84. -/
def sequential : Instr → Bool
  | .cls => true
  | .ret => false
  | .jp _ => false
  | .call _ => false
  | .seByte _ _ => false
  | .sneByte _ _ => false
  | .seReg _ _ => false
  | .ldByte _ _ => true
  | .addByte _ _ => true
  | .ldReg _ _ => true
  | .orReg _ _ => true
  | .andReg _ _ => true
  | .xorReg _ _ => true
  | .addReg _ _ => true
  | .subReg _ _ => true
  | .shr _ _ => true
  | .subnReg _ _ => true
  | .shl _ _ => true
  | .sneReg _ _ => false
  | .ldI _ => true
  | .jpV0 _ => false
  | .rnd _ _ => true

/-- The one register a V-writing instruction names as its destination. -/
def destination : Instr → Option RegIdx
  | .cls => none
  | .ret => none
  | .jp _ => none
  | .call _ => none
  | .seByte _ _ => none
  | .sneByte _ _ => none
  | .seReg _ _ => none
  | .ldByte x _ => some x
  | .addByte x _ => some x
  | .ldReg x _ => some x
  | .orReg x _ => some x
  | .andReg x _ => some x
  | .xorReg x _ => some x
  | .addReg x _ => some x
  | .subReg x _ => some x
  | .shr x _ => some x
  | .subnReg x _ => some x
  | .shl x _ => some x
  | .sneReg _ _ => none
  | .ldI _ => none
  | .jpV0 _ => none
  | .rnd x _ => some x

/-- The instructions that write a flag to VF (R23). -/
def writesFlag : Instr → Bool
  | .addReg _ _ => true
  | .subReg _ _ => true
  | .shr _ _ => true
  | .subnReg _ _ => true
  | .shl _ _ => true
  | _ => false

/-- The instructions that ask for a random byte (R88). -/
def asksRandom : Instr → Bool
  | .rnd _ _ => true
  | _ => false

/-- Push(a) for each of a list of addresses, in order. -/
def pushAll (as : List Word) (s : State) : State := as.foldl (fun u a => u.push a) s

/-- Where a LOAD begins: at the start it names, at 0x200 where it names none (R55, R80). -/
def startNat : Option Addr → Nat
  | some a => a.toNat
  | none => 0x200

/-- Sprite bit b of row r: bit 7 - b of the row byte (R132). -/
def spriteBit (rows : List Byte) (r b : Nat) : Bool := (rows[r]?.getD 0#8).getLsbD (7 - b)

/-! ## Pins -/

/-- No reset, no request, no data; the random source answers `b` whenever it is asked. -/
def waitPins (b : Byte) : PinsIn :=
  ⟨false, false, 0#3, 0#4, 0#16, 0#16, false, 0#8, true, b⟩

/-- A STEP request. -/
def stepPins (b : Byte) : PinsIn := ⟨false, true, 0#3, 0#4, 0#16, 0#16, false, 0#8, true, b⟩

/-- A LOAD request: start in req_a, the length in req_b (R98). -/
def loadPins (start : Addr) (len : BitVec 13) : PinsIn :=
  ⟨false, true, 1#3, 0#4, start.setWidth 16, len.setWidth 16, false, 0#8, false, 0#8⟩

/-- A DRAW request: x in req_a, y in req_b, the row count in req_sel (R98). -/
def drawPins (x y : Byte) (n : BitVec 4) : PinsIn :=
  ⟨false, true, 4#3, n, x.setWidth 16, y.setWidth 16, false, 0#8, false, 0#8⟩

/-- One data beat. -/
def beatPins (d : Byte) : PinsIn := ⟨false, false, 0#3, 0#4, 0#16, 0#16, true, d, false, 0#8⟩

/-- The outputs answer exactly once, in the last cycle, with the response `r`. -/
def AnswersLast (outs : List PinsOut) (r : Response) : Prop :=
  ∃ pre out, outs = pre ++ [out] ∧ (∀ o ∈ pre, o.rspValid = false) ∧ out.rspValid = true ∧
    out.rspStatus = r.status ∧ out.rspData = r.data ∧ out.rspAddr = r.addr

/-- The clock cycles of a STEP after its request is accepted (R167: nominal). -/
def stepCycles : Instr → Nat
  | .cls => 37
  | _ => 5

end Sys2Proof.Claims

open Sys2Proof Sys2Proof.Machine Sys2Proof.Claims

/-! # Encoding -/

/-- One word of each row of the handler table, written out from the patterns of R72, decodes to its
instruction. -/
def Obligations.SampleWordsDecode : Prop :=
  decodeWord 0x00E0#16 = some .cls ∧ decodeWord 0x00EE#16 = some .ret ∧
  decodeWord 0x1666#16 = some (.jp 0x666#12) ∧ decodeWord 0x2206#16 = some (.call 0x206#12) ∧
  decodeWord 0x3AFF#16 = some (.seByte 0xA#4 0xFF#8) ∧
  decodeWord 0x4A01#16 = some (.sneByte 0xA#4 0x01#8) ∧
  decodeWord 0x5010#16 = some (.seReg 0x0#4 0x1#4) ∧
  decodeWord 0x6A42#16 = some (.ldByte 0xA#4 0x42#8) ∧
  decodeWord 0x7580#16 = some (.addByte 0x5#4 0x80#8) ∧
  decodeWord 0x8310#16 = some (.ldReg 0x3#4 0x1#4) ∧
  decodeWord 0x8AB1#16 = some (.orReg 0xA#4 0xB#4) ∧
  decodeWord 0x8AB2#16 = some (.andReg 0xA#4 0xB#4) ∧
  decodeWord 0x8AB3#16 = some (.xorReg 0xA#4 0xB#4) ∧
  decodeWord 0x80F4#16 = some (.addReg 0x0#4 0xF#4) ∧
  decodeWord 0x8FE5#16 = some (.subReg 0xF#4 0xE#4) ∧
  decodeWord 0x8126#16 = some (.shr 0x1#4 0x2#4) ∧
  decodeWord 0x8FE7#16 = some (.subnReg 0xF#4 0xE#4) ∧
  decodeWord 0x812E#16 = some (.shl 0x1#4 0x2#4) ∧
  decodeWord 0x9120#16 = some (.sneReg 0x1#4 0x2#4) ∧
  decodeWord 0xA123#16 = some (.ldI 0x123#12) ∧ decodeWord 0xB20A#16 = some (.jpV0 0x20A#12) ∧
  decodeWord 0xCC3C#16 = some (.rnd 0xC#4 0x3C#8)

/-- Decoding the bytes of any well-formed instruction, followed by any bytes, gives it back and leaves
the bytes that follow. -/
def Obligations.DecodeOfEncode : Prop :=
  ∀ (i : Instr) (rest : List Byte), i.wellFormed = true →
    decode (encodeBytes i ++ rest) = .ok (i, rest)

/-- A word that decodes to an instruction is that instruction's encoding: no bit of it is dropped, and no
two words decode to one `Instr`. For 8xy6 and 8xyE that is the model's choice (log entry 14): `Instr`
keeps the y that R66 and the spec's decision D9 ignore, so that 8106 and 8126, both SHR V1, are two terms.
ShiftRight and ShiftLeftFlagsBitZero say that y does not matter. -/
def Obligations.EncodeOfDecode : Prop :=
  ∀ (op : Word) (i : Instr), decodeWord op = some i → encode i = op

/-- R71: the decoder takes the first entry that matches, in the table's order; where none matches,
decoding fails and the step raises UnknownOpcode; decoding depends on the opcode alone, and the state
after a failed STEP is the state before it but for the hidden IR. -/
def Obligations.DecodeTakesFirstMatchingEntry : Prop :=
  (∀ (op : Word) (before after : List Entry) (e : Entry), handlerTable = before ++ e :: after →
    (∀ e' ∈ before, op &&& e'.mask ≠ e'.pattern) → op &&& e.mask = e.pattern →
      decodeWord op = some (e.build op)) ∧
  (∀ op : Word, (∀ e ∈ handlerTable, op &&& e.mask ≠ e.pattern) → decodeWord op = none) ∧
  ∀ s : State, s.fsm = .idle → (∀ e ∈ handlerTable, s.fetch &&& e.mask ≠ e.pattern) →
    step s = .fault (.unknownOpcode s.fetch s.fetchAddr) ∧
      (s.transact .step).2 = { s with ir := s.fetch }

/-- R74: no two entries of the handler table match one opcode, so its order does not matter; it has 22
entries (R72). -/
def Obligations.AtMostOneEntryMatches : Prop :=
  handlerTable.length = 22 ∧
  ∀ (op : Word) (j k : Nat) (e e' : Entry), handlerTable[j]? = some e → handlerTable[k]? = some e' →
    op &&& e.mask = e.pattern → op &&& e'.mask = e'.pattern → j = k

/-- R73: the unknown opcodes are exactly those of its table. -/
def Obligations.UnknownOpcodesAreExactly : Prop :=
  ∀ op : Word, decodeWord op = none ↔
    op.toNat ≤ 0x00DF ∨ (0x00E1 ≤ op.toNat ∧ op.toNat ≤ 0x00ED) ∨
    (0x00EF ≤ op.toNat ∧ op.toNat ≤ 0x0FFF) ∨
    (op.toNat / 0x1000 = 0x5 ∧ op.toNat % 0x10 ≠ 0x0) ∨
    (op.toNat / 0x1000 = 0x8 ∧ op.toNat % 0x10 ∈ [0x8, 0x9, 0xA, 0xB, 0xC, 0xD, 0xF]) ∨
    (op.toNat / 0x1000 = 0x9 ∧ op.toNat % 0x10 ≠ 0x0) ∨ 0xD000 ≤ op.toNat

/-! # The step -/

/-- R81: a STEP fetches the word at PC, decodes it, and runs the instruction it stands for on the state
before it (with the word in the hidden IR), all its writes at once, and the transaction responds OK and
leaves what the instruction does; where no entry matches it raises UnknownOpcode with the word and
zext_16(pc mod 4096), and no state changes but IR. -/
def Obligations.StepRunsDecodedInstruction : Prop :=
  ∀ (s : State) (hi lo : Byte), s.fsm = .idle →
    s.mem.read (s.pc.toNat % 4096) = hi → s.mem.read ((s.pc.toNat + 1) % 4096) = lo →
    (∀ i, decodeWord (hi ++ lo) = some i →
      step s = exec i { s with ir := hi ++ lo } ∧
      ∃ t, exec i { s with ir := hi ++ lo } = .next t ∧ s.transact .step = (.ok, t)) ∧
    (decodeWord (hi ++ lo) = none →
      step s = .fault (.unknownOpcode (hi ++ lo) (BitVec.ofNat 16 (s.pc.toNat % 4096))) ∧
      s.transact .step =
        (.unknownOpcode (hi ++ lo) (BitVec.ofNat 16 (s.pc.toNat % 4096)), { s with ir := hi ++ lo }))

/-- R82 and R46: the opcode is the two bytes at pc mod 4096 and (pc + 1) mod 4096, high byte first, for
every PC, odd ones and those above 0x0FFF among them; the fetch changes nothing but the hidden IR,
whether or not the word decodes. -/
def Obligations.FetchIsTwoBytesBigEndian : Prop :=
  ∀ s : State,
    s.fetch.toNat =
      256 * (s.mem.read (s.pc.toNat % 4096)).toNat + (s.mem.read ((s.pc.toNat + 1) % 4096)).toNat ∧
    (∀ i, s.fsm = .idle → decodeWord s.fetch = some i → step s = exec i { s with ir := s.fetch }) ∧
    (s.fsm = .idle → decodeWord s.fetch = none → (s.transact .step).2 = { s with ir := s.fetch })

/-- R87, R100: a failed STEP answers UNKNOWN_OPCODE with the word and the fetch address, changes nothing
but the hidden IR, and fails again with the same report. -/
def Obligations.FailedStepReportsAndRepeats : Prop :=
  ∀ s : State, s.fsm = .idle → decodeWord s.fetch = none →
    ∃ addr : Word, addr.toNat = s.pc.toNat % 4096 ∧
    s.transact .step = (.unknownOpcode s.fetch addr, { s with ir := s.fetch }) ∧
    State.transact .step { s with ir := s.fetch } =
      (.unknownOpcode s.fetch addr, { s with ir := s.fetch })

/-- R144: nothing but an unknown opcode fails a STEP, whatever the stack, the registers and PC hold; of
the other requests of R80 only a LOAD that does not fit fails; a DRAW at any coordinates and a READ of
any target succeed. -/
def Obligations.NothingElseFails : Prop :=
  ∀ s : State, s.fsm = .idle →
    ((∃ t, step s = .next t) ↔ ∃ i, decodeWord s.fetch = some i) ∧
    (∀ r : Request, r.wellFormed = true →
      (∀ op a, (s.transact r).1 = .unknownOpcode op a → r = .step ∧ decodeWord s.fetch = none) ∧
      ((s.transact r).1 = .loadTooLarge →
        ∃ start data, r = .load start data ∧ 4096 < startNat start + data.length) ∧
      (s.transact r).1 ≠ .badRequest ∧ (s.transact r).1 ≠ .notSeen) ∧
    (∀ x y rows, rows.length ≤ 15 → ∃ e t, s.transact (.draw x y rows) = (.didErase e, t)) ∧
    (∀ target, ∃ v, s.transact (.read target) = (.value v, s))

/-- R84: each sequential instruction completes and leaves PC at (pc + 2) mod 2^16. -/
def Obligations.SequentialAdvancesByTwo : Prop :=
  ∀ (i : Instr) (s : State), sequential i = true → ∃ t, exec i s = .next t ∧ PcRises 2 s t

/-- R26: PC after every kind of instruction, after a failed step and after a LOAD. RET leaves the value that
Pop gives, under whichever EMPTY_POP_MODE the machine has (log entry 5; what Pop gives is the subject of
PopGivesNewestAddress). The next STEP runs the instruction whose word is at the address PC holds, and a
STEP on a word that is none reports that word. -/
def Obligations.PcAfterEachTransaction : Prop :=
  (∀ (i : Instr) (s : State), sequential i = true → ∃ t, exec i s = .next t ∧ PcRises 2 s t) ∧
  (∀ (x y : RegIdx) (kk : Byte) (s : State),
    ∀ i ∈ [Instr.seByte x kk, .sneByte x kk, .seReg x y, .sneReg x y],
      ∃ t, exec i s = .next t ∧ (PcRises 2 s t ∨ PcRises 4 s t)) ∧
  (∀ (nnn : Addr) (s : State), ∀ i ∈ [Instr.jp nnn, .call nnn],
    ∃ t, exec i s = .next t ∧ t.pc.toNat = nnn.toNat) ∧
  (∀ (nnn : Addr) (s : State), ∃ t, exec (.jpV0 nnn) s = .next t ∧
    t.pc.toNat = (nnn.toNat + (s.getV 0x0#4).toNat) % 4096) ∧
  (∀ s : State, ∃ t, exec .ret s = .next t ∧ t.pc = (s.popWith s.popMode).1) ∧
  (∀ s : State, s.fsm = .idle → decodeWord s.fetch = none → (s.transact .step).2.pc = s.pc) ∧
  (∀ (s : State) (start : Option Addr) (data : List Byte), s.fsm = .idle →
    startNat start + data.length ≤ 4096 →
    (s.transact (.load start data)).2.pc.toNat = startNat start) ∧
  ∀ s : State, s.fsm = .idle →
    (∀ i, decodeWord (memRead2 s.mem s.pc.toNat) = some i →
      step s = exec i { s with ir := memRead2 s.mem s.pc.toNat }) ∧
    (decodeWord (memRead2 s.mem s.pc.toNat) = none →
      ∃ a, step s = .fault (.unknownOpcode (memRead2 s.mem s.pc.toNat) a))

/-! # Control transfer -/

/-- R101 (what an empty pop gives is the spec's decision D4): RET jumps to the newest return address and
drops it; on an empty stack it jumps to 0x0000 under EMPTY_POP_MODE = ZERO, this hardware's, and to S[0]
under SLOT0 (log entry 5), and nothing of the stack changes. No slot changes. -/
def Obligations.ReturnPopsIntoPc : Prop :=
  DecodesAs 0xFFFF#16 0x00EE#16 (fun _ => .ret) ∧
  ∀ s : State, ∃ t, exec .ret s = .next t ∧
    (s.sc.val = 0 → t.sc = s.sc ∧ (s.popMode = .zero → t.pc = 0x0000#16) ∧
      (s.popMode = .slot0 → t.pc = s.slot 0x0#4)) ∧
    (∀ k : RegIdx, s.sc.val = k.toNat + 1 → t.pc = s.slot k ∧ t.sc.val = k.toNat) ∧
    (∀ k, t.slot k = s.slot k) ∧ OnlyStackAndPc s t

/-- R102: JP sets PC to zext_16(nnn); a jump to its own address changes nothing at all. -/
def Obligations.JumpSetsPc : Prop :=
  DecodesAs 0xF000#16 0x1000#16 (fun op => .jp (bits11to0 op)) ∧
  ∀ (nnn : Addr) (s : State), ∃ t, exec (.jp nnn) s = .next t ∧
    t.pc.toNat = nnn.toNat ∧ (s.pc.toNat = nnn.toNat → t = s)

/-- R103: CALL pushes (pc + 2) mod 2^16 and jumps to zext_16(nnn); with room the address goes to slot SC
and SC rises, on a full stack it overwrites S[15] and SC stays 16 (R31). -/
def Obligations.CallPushesReturnAddress : Prop :=
  DecodesAs 0xF000#16 0x2000#16 (fun op => .call (bits11to0 op)) ∧
  ∀ (nnn : Addr) (s : State), ∃ t, exec (.call nnn) s = .next t ∧
    t.pc.toNat = nnn.toNat ∧
    (∀ k : RegIdx, s.sc.val = k.toNat →
      (t.slot k).toNat = (s.pc.toNat + 2) % 2 ^ 16 ∧ t.sc.val = k.toNat + 1 ∧
      ∀ j, j ≠ k → t.slot j = s.slot j) ∧
    (s.sc.val = 16 →
      (t.slot 0xF#4).toNat = (s.pc.toNat + 2) % 2 ^ 16 ∧ t.sc = s.sc ∧
      ∀ j, j ≠ 0xF#4 → t.slot j = s.slot j)

/-- R105: SE Vx, byte skips the next word exactly when Vx = kk. -/
def Obligations.SkipIfRegisterEqualsByte : Prop :=
  DecodesAs 0xF000#16 0x3000#16 (fun op => .seByte (bits11to8 op) (bits7to0 op)) ∧
  ∀ (x : RegIdx) (kk : Byte) (s : State), ∃ t, exec (.seByte x kk) s = .next t ∧
    (s.getV x = kk → PcRises 4 s t) ∧ (s.getV x ≠ kk → PcRises 2 s t)

/-- R106: SNE Vx, byte skips the next word exactly when Vx differs from kk. -/
def Obligations.SkipIfRegisterDiffersFromByte : Prop :=
  DecodesAs 0xF000#16 0x4000#16 (fun op => .sneByte (bits11to8 op) (bits7to0 op)) ∧
  ∀ (x : RegIdx) (kk : Byte) (s : State), ∃ t, exec (.sneByte x kk) s = .next t ∧
    (s.getV x ≠ kk → PcRises 4 s t) ∧ (s.getV x = kk → PcRises 2 s t)

/-- R107 and R108 (the low nibble 0 by the spec's decision D8, the frame by R14 and D7): SE Vx, Vy skips
exactly when Vx = Vy, SNE Vx, Vy exactly when they differ; nothing but PC changes. -/
def Obligations.SkipOnTwoRegisters : Prop :=
  DecodesAs 0xF00F#16 0x5000#16 (fun op => .seReg (bits11to8 op) (bits7to4 op)) ∧
  DecodesAs 0xF00F#16 0x9000#16 (fun op => .sneReg (bits11to8 op) (bits7to4 op)) ∧
  ∀ (x y : RegIdx) (s : State),
    (∃ t, exec (.seReg x y) s = .next t ∧
      (s.getV x = s.getV y → PcRises 4 s t) ∧ (s.getV x ≠ s.getV y → PcRises 2 s t) ∧ OnlyPc s t) ∧
    ∃ t, exec (.sneReg x y) s = .next t ∧
      (s.getV x ≠ s.getV y → PcRises 4 s t) ∧ (s.getV x = s.getV y → PcRises 2 s t) ∧ OnlyPc s t

/-- R110: JP V0 sets PC to (nnn + V0) mod 4096, whatever op[11:8] holds. -/
def Obligations.IndexedJumpAddsV0 : Prop :=
  DecodesAs 0xF000#16 0xB000#16 (fun op => .jpV0 (bits11to0 op)) ∧
  ∀ (nnn : Addr) (s : State), ∃ t, exec (.jpV0 nnn) s = .next t ∧
    t.pc.toNat = (nnn.toNat + (s.getV 0x0#4).toNat) % 4096

/-- The frame of JP, JP V0, SE Vx, byte and SNE Vx, byte (nothing but PC changes) and of CALL (nothing but
the stack and PC): R14, the spec's decision D7. -/
def Obligations.FrameOfControlTransfers : Prop :=
  ∀ (nnn : Addr) (x : RegIdx) (kk : Byte) (s : State),
    (∀ i ∈ [Instr.jp nnn, .jpV0 nnn, .seByte x kk, .sneByte x kk],
      ∃ t, exec i s = .next t ∧ OnlyPc s t) ∧
    ∃ t, exec (.call nnn) s = .next t ∧ OnlyStackAndPc s t

/-! # Loads, arithmetic, logic, shifts, random -/

/-- R112: LD Vx, byte; VF changes only when x = 0xF, and then to kk. -/
def Obligations.LoadByteIntoRegister : Prop :=
  DecodesAs 0xF000#16 0x6000#16 (fun op => .ldByte (bits11to8 op) (bits7to0 op)) ∧
  ∀ (x : RegIdx) (kk : Byte) (s : State), ∃ t, exec (.ldByte x kk) s = .next t ∧
    t.getV x = kk ∧ (x ≠ 0xF#4 → t.getV 0xF#4 = s.getV 0xF#4) ∧ PcRises 2 s t

/-- R113: ADD Vx, byte adds mod 256; VF is not written unless x = 0xF, when it receives the sum. -/
def Obligations.AddByteToRegister : Prop :=
  DecodesAs 0xF000#16 0x7000#16 (fun op => .addByte (bits11to8 op) (bits7to0 op)) ∧
  ∀ (x : RegIdx) (kk : Byte) (s : State), ∃ t, exec (.addByte x kk) s = .next t ∧
    (t.getV x).toNat = ((s.getV x).toNat + kk.toNat) % 256 ∧
    (x ≠ 0xF#4 → t.getV 0xF#4 = s.getV 0xF#4) ∧ PcRises 2 s t

/-- R114: LD Vx, Vy; with x = y nothing changes but PC; VF is written only as Vx. -/
def Obligations.CopyRegister : Prop :=
  DecodesAs 0xF00F#16 0x8000#16 (fun op => .ldReg (bits11to8 op) (bits7to4 op)) ∧
  ∀ (x y : RegIdx) (s : State), ∃ t, exec (.ldReg x y) s = .next t ∧
    t.getV x = s.getV y ∧ (x ≠ 0xF#4 → t.getV 0xF#4 = s.getV 0xF#4) ∧ PcRises 2 s t ∧
    (x = y → t = { s with pc := t.pc })

/-- The frame of LD Vx, byte, ADD Vx, byte and LD Vx, Vy (nothing but Vx and PC changes), of LD I, addr
(nothing but I and PC) and of CLS (nothing but the plane and PC): R14, the spec's decision D7. -/
def Obligations.FrameOfLoadsAndClear : Prop :=
  ∀ (x y : RegIdx) (kk : Byte) (nnn : Addr) (s : State),
    (∀ i ∈ [Instr.ldByte x kk, .addByte x kk, .ldReg x y],
      ∃ t, exec i s = .next t ∧ RegsSameBut [x] s t ∧ OnlyRegsAndPc s t) ∧
    (∃ t, exec (.ldI nnn) s = .next t ∧ RegsSameBut [] s t ∧ StackSame s t ∧ PixelsSame s t ∧
      t.rnd = s.rnd ∧ OthersSame s t) ∧
    ∃ t, exec .cls s = .next t ∧ RegsSameBut [] s t ∧ t.i = s.i ∧ StackSame s t ∧ t.rnd = s.rnd ∧
      OthersSame s t

/-- R115, R116, R117 (VF not reset, by the spec's decision D7): OR, AND and XOR, bit by bit. -/
def Obligations.LogicBitByBit : Prop :=
  DecodesAs 0xF00F#16 0x8001#16 (fun op => .orReg (bits11to8 op) (bits7to4 op)) ∧
  DecodesAs 0xF00F#16 0x8002#16 (fun op => .andReg (bits11to8 op) (bits7to4 op)) ∧
  DecodesAs 0xF00F#16 0x8003#16 (fun op => .xorReg (bits11to8 op) (bits7to4 op)) ∧
  ∀ (x y : RegIdx) (s : State),
    ∀ p ∈ [(Instr.orReg x y, fun a b : Bool => a || b), (.andReg x y, fun a b => a && b),
        (.xorReg x y, fun a b => a != b)],
      ∃ t, exec p.1 s = .next t ∧
        (∀ j, j < 8 → (t.getV x).getLsbD j = p.2 ((s.getV x).getLsbD j) ((s.getV y).getLsbD j)) ∧
        RegsSameBut [x] s t ∧ PcRises 2 s t ∧ OnlyRegsAndPc s t

/-- R118 with R24's choice for x = 0xF (the spec's decisions D5, D6): VF ends as the carry, whatever x
is; Vx, unless it is VF, as the sum mod 256. -/
def Obligations.AddRegistersWithCarry : Prop :=
  DecodesAs 0xF00F#16 0x8004#16 (fun op => .addReg (bits11to8 op) (bits7to4 op)) ∧
  ∀ (x y : RegIdx) (s : State), ∃ t, exec (.addReg x y) s = .next t ∧
    ((s.getV x).toNat + (s.getV y).toNat > 255 → t.getV 0xF#4 = 0x01#8) ∧
    ((s.getV x).toNat + (s.getV y).toNat ≤ 255 → t.getV 0xF#4 = 0x00#8) ∧
    (x ≠ 0xF#4 → (t.getV x).toNat = ((s.getV x).toNat + (s.getV y).toNat) % 256) ∧
    RegsSameBut [x, 0xF#4] s t ∧ PcRises 2 s t ∧ OnlyRegsAndPc s t

/-- R119 with R24's choice for x = 0xF (the spec's decisions D5, D6): Vx ends as the difference mod 256,
whatever x is; VF, unless it is Vx, as the no-borrow flag of the old values. -/
def Obligations.SubtractRegisters : Prop :=
  DecodesAs 0xF00F#16 0x8005#16 (fun op => .subReg (bits11to8 op) (bits7to4 op)) ∧
  ∀ (x y : RegIdx) (s : State), ∃ t, exec (.subReg x y) s = .next t ∧
    ((t.getV x).toNat : Int) = ((s.getV x).toNat - (s.getV y).toNat : Int) % 256 ∧
    (x ≠ 0xF#4 → (s.getV y).toNat ≤ (s.getV x).toNat → t.getV 0xF#4 = 0x01#8) ∧
    (x ≠ 0xF#4 → (s.getV x).toNat < (s.getV y).toNat → t.getV 0xF#4 = 0x00#8) ∧
    RegsSameBut [x, 0xF#4] s t ∧ PcRises 2 s t ∧ OnlyRegsAndPc s t

/-- R121 with R24's choice for x = 0xF (the spec's decisions D5, D6): as SUB with the operands
exchanged. -/
def Obligations.SubtractRegistersReversed : Prop :=
  DecodesAs 0xF00F#16 0x8007#16 (fun op => .subnReg (bits11to8 op) (bits7to4 op)) ∧
  ∀ (x y : RegIdx) (s : State), ∃ t, exec (.subnReg x y) s = .next t ∧
    ((t.getV x).toNat : Int) = ((s.getV y).toNat - (s.getV x).toNat : Int) % 256 ∧
    (x ≠ 0xF#4 → (s.getV x).toNat ≤ (s.getV y).toNat → t.getV 0xF#4 = 0x01#8) ∧
    (x ≠ 0xF#4 → (s.getV y).toNat < (s.getV x).toNat → t.getV 0xF#4 = 0x00#8) ∧
    RegsSameBut [x, 0xF#4] s t ∧ PcRises 2 s t ∧ OnlyRegsAndPc s t

/-- R120 (the spec's decisions D5, D6, D9): Vx is halved, VF, unless it is Vx, takes old bit 0, and y
does not matter. -/
def Obligations.ShiftRight : Prop :=
  DecodesAs 0xF00F#16 0x8006#16 (fun op => .shr (bits11to8 op) (bits7to4 op)) ∧
  ∀ (x y : RegIdx) (s : State), ∃ t, exec (.shr x y) s = .next t ∧
    (t.getV x).toNat = (s.getV x).toNat / 2 ∧
    (x ≠ 0xF#4 → (t.getV 0xF#4).toNat = (s.getV x).toNat % 2) ∧
    RegsSameBut [x, 0xF#4] s t ∧ PcRises 2 s t ∧ OnlyRegsAndPc s t ∧
    ∀ y', exec (.shr x y') s = .next t

/-- R122 (SHL_FLAG_BIT = LSB; the spec's decisions D5, D6, D9): Vx is doubled mod 256, VF, unless it is
Vx, takes old bit 0 (not bit 7), and y does not matter. -/
def Obligations.ShiftLeftFlagsBitZero : Prop :=
  DecodesAs 0xF00F#16 0x800E#16 (fun op => .shl (bits11to8 op) (bits7to4 op)) ∧
  ∀ (x y : RegIdx) (s : State), ∃ t, exec (.shl x y) s = .next t ∧
    (t.getV x).toNat = 2 * (s.getV x).toNat % 256 ∧
    (x ≠ 0xF#4 → (t.getV 0xF#4).toNat = (s.getV x).toNat % 2) ∧
    RegsSameBut [x, 0xF#4] s t ∧ PcRises 2 s t ∧ OnlyRegsAndPc s t ∧
    ∀ y', exec (.shl x y') s = .next t

/-- R123: LD I, addr; I's top four bits become 0; no instruction reads I: whatever I held before, an
instruction leaves everything else alike, and I as it was or as LD I, addr sets it. -/
def Obligations.LoadIndexRegister : Prop :=
  DecodesAs 0xF000#16 0xA000#16 (fun op => .ldI (bits11to0 op)) ∧
  (∀ (nnn : Addr) (s : State), ∃ t, exec (.ldI nnn) s = .next t ∧
    t.i.toNat = nnn.toNat ∧ PcRises 2 s t) ∧
  ∀ (i : Instr) (s : State) (w : Word), ∃ t u,
    exec i s = .next t ∧ exec i { s with i := w } = .next u ∧ { u with i := t.i } = t ∧
      (u.i = w ∨ u.i = t.i)

/-- R124 (the host's byte, the spec's decision D16): for every byte the random source is about to give,
Vx takes byte AND kk, and exactly one byte is requested. Where the source has announced no byte the
byte is a free value of the model (log entry 4), and the statement holds for every such value. -/
def Obligations.RandomByteMasked : Prop :=
  DecodesAs 0xF000#16 0xC000#16 (fun op => .rnd (bits11to8 op) (bits7to0 op)) ∧
  (∀ (x : RegIdx) (kk : Byte) (s : State), ∃ t, exec (.rnd x kk) s = .next t ∧
    t.getV x = s.rndByte &&& kk ∧ RegsSameBut [x] s t ∧ PcRises 2 s t ∧
    t.rnd.served = s.rnd.served + 1 ∧ t.rnd.answers = s.rnd.answers.tail ∧
    t.i = s.i ∧ StackSame s t ∧ PixelsSame s t ∧ OthersSame s t) ∧
  ∀ (x : RegIdx) (kk b : Byte) (s : State), ∃ t, exec (.rnd x kk) (s.offerRandom b) = .next t ∧
    t.getV x = b &&& kk ∧ t.rnd.answers = s.rnd.answers ∧ t.rnd.served = s.rnd.served + 1

/-- R135, R131: CLS sets all 2048 pixels to 0 and PC to PC + 2; no register (VF among them), memory or
stack state changes; on a plane already all 0 only PC changes. -/
def Obligations.ClearScreen : Prop :=
  DecodesAs 0xFFFF#16 0x00E0#16 (fun _ => .cls) ∧
  ∀ s : State, ∃ t, exec .cls s = .next t ∧ (∀ x y, fbGet t.fb x y = false) ∧
    PcRises 2 s t ∧ RegsSameBut [] s t ∧ t.i = s.i ∧ t.dt = s.dt ∧ t.st = s.st ∧ StackSame s t ∧
    MemSame s t ∧ ((∀ x y, fbGet s.fb x y = false) → t = { s with pc := t.pc })

/-! # The whole machine -/

/-- R25: Annn is the only instruction that writes I; no instruction reads it; after reset it is at most
0x0FFF, whatever transactions follow; READ returns it. -/
def Obligations.OnlyLoadIndexWritesI : Prop :=
  (∀ (i : Instr) (s t : State), exec i s = .next t →
    (∃ nnn, i = .ldI nnn ∧ t.i.toNat = nnn.toNat) ∨ ((∀ nnn, i ≠ .ldI nnn) ∧ t.i = s.i)) ∧
  (∀ (i : Instr) (s t : State) (w : Word), exec i s = .next t →
    ∃ u, exec i { s with i := w } = .next u ∧ { u with i := t.i } = t) ∧
  (∀ t : State, Reaches State.reset t → t.i.toNat ≤ 0x0FFF) ∧
  ∀ s : State, s.fsm = .idle → s.transact (.read .i) = (.value s.i, s)

/-- R41, R28 (the spec's decision D17): no instruction reads or writes memory as data or a timer: the
instruction runs alike whatever they hold, and leaves them. -/
def Obligations.InstructionsIgnoreMemoryAndTimers : Prop :=
  ∀ (i : Instr) (s t : State) (m : Memory) (a b : Byte), exec i s = .next t →
    exec i { s with mem := m, dt := a, st := b } = .next { t with mem := m, dt := a, st := b }

/-- R35 with 90_conflicts.md C5: a transaction that changes a pixel is a DRAW, a RESET, or a STEP that
runs CLS. -/
def Obligations.OnlyClsDrawResetChangePixels : Prop :=
  ∀ (r : Request) (s : State) (x y : Nat), fbGet (s.transact r).2.fb x y ≠ fbGet s.fb x y →
    r = .reset ∨ (∃ a b rows, r = .draw a b rows) ∨ (r = .step ∧ decodeWord s.fetch = some .cls)

/-- R29: no instruction but CALL and RET touches the stack, and none but they depends on it or on
EMPTY_POP_MODE. -/
def Obligations.OnlyCallAndReturnTouchStack : Prop :=
  ∀ (i : Instr) (s t : State), i ≠ .ret → (∀ nnn, i ≠ .call nnn) → exec i s = .next t →
    t.sc = s.sc ∧ t.stack = s.stack ∧
    ∀ (st : Vector Word 16) (n : Fin 17) (m : Config.EmptyPopMode),
      exec i { s with stack := st, sc := n, popMode := m } =
        .next { t with stack := st, sc := n, popMode := m }

/-- R22, R23: an instruction changes no V register but its destination and, for the five that write a
flag, VF; VF then holds 0x00 or 0x01 unless it is the destination. -/
def Obligations.RegistersWrittenOnlyAsNamed : Prop :=
  ∀ (i : Instr) (s t : State) (r : RegIdx), exec i s = .next t →
    (t.getV r ≠ s.getV r → destination i = some r ∨ (writesFlag i = true ∧ r = 0xF#4)) ∧
    (writesFlag i = true → destination i ≠ some 0xF#4 →
      t.getV 0xF#4 = 0x00#8 ∨ t.getV 0xF#4 = 0x01#8)

/-- R88: a Cxkk requests exactly one random byte and no other instruction requests one or depends on the
random source. -/
def Obligations.RandomByteOnlyForRnd : Prop :=
  ∀ (i : Instr) (s t : State), exec i s = .next t →
    (asksRandom i = true → t.rnd.served = s.rnd.served + 1) ∧
    (asksRandom i = false → ∀ r : RandomSource, exec i { s with rnd := r } = .next { t with rnd := r }) ∧
    (asksRandom i = false → t.rnd = s.rnd)

/-! # The call stack -/

/-- R31: pushes from an empty stack fill S[0], S[1], … in order; the 17th and every later push overwrites
S[15], and SC stays 16. -/
def Obligations.PushesFillThenOverwriteTop : Prop :=
  ∀ (s : State) (as : List Word), s.sc.val = 0 →
    (pushAll as s).sc.val = min as.length 16 ∧
    (∀ k : RegIdx, k.toNat < as.length → (k.toNat < 15 ∨ as.length ≤ 16) →
      as[k.toNat]? = some ((pushAll as s).slot k)) ∧
    (16 ≤ as.length → as.getLast? = some ((pushAll as s).slot 0xF#4)) ∧
    (∀ k : RegIdx, as.length ≤ k.toNat → (pushAll as s).slot k = s.slot k) ∧
    RegsSameBut [] s (pushAll as s) ∧ (pushAll as s).pc = s.pc ∧ (pushAll as s).i = s.i ∧
    PixelsSame s (pushAll as s) ∧ (pushAll as s).rnd = s.rnd ∧ OthersSame s (pushAll as s)

/-- R32 (the spec's decision D4), under either EMPTY_POP_MODE: a pop after a push gives the address back;
an empty pop gives 0x0000 or S[0] by the mode and changes nothing; a pop changes no slot. -/
def Obligations.PopGivesNewestAddress : Prop :=
  ∀ (s : State) (mode : Config.EmptyPopMode) (a : Word),
    ((s.push a).popWith mode).1 = a ∧
    (s.sc.val < 16 → ((s.push a).popWith mode).2.sc = s.sc) ∧
    (s.sc.val = 0 → s.popWith mode = (match mode with | .zero => 0x0000#16 | .slot0 => s.slot 0x0#4, s)) ∧
    (0 < s.sc.val → (s.popWith mode).2.sc.val = s.sc.val - 1) ∧
    (s.popWith mode).2.stack = s.stack

/-- R101 and R103 together (S3 of 95_test_vectors.md): after a CALL, a RET leads to the word after the
CALL; with room on the stack SC is what it was, and so is every V register, I, the plane and memory. -/
def Obligations.CallThenReturnComesBack : Prop :=
  ∀ (nnn : Addr) (s t : State), exec (.call nnn) s = .next t →
    ∃ u, exec .ret t = .next u ∧ PcRises 2 s u ∧ (s.sc.val < 16 → u.sc = s.sc) ∧
      (s.sc.val = 16 → u.sc.val = 15) ∧ RegsSameBut [] s u ∧ u.i = s.i ∧ PixelsSame s u ∧
      OthersSame s u ∧ ∀ k : RegIdx, k.toNat < s.sc.val → k ≠ 0xF#4 → u.slot k = s.slot k

/-! # Memory and LOAD -/

/-- R44, R45, R47, R49, R51: a word written at any address is its high byte there and its low byte at the
next address, both mod 4096; every other byte is unchanged; the word reads back; memory keeps its
canonical form. -/
def Obligations.WordWriteIsTwoBytesWrapped : Prop :=
  ∀ (m : Memory) (a : Nat) (w : Word), m.wf →
    (∀ c : Nat, memRead1 (memWrite2 m a w) c =
      if c % 4096 = a % 4096 then w.extractLsb 15 8
      else if c % 4096 = (a + 1) % 4096 then w.extractLsb 7 0
      else memRead1 m c) ∧
    memRead2 (memWrite2 m a w) a = w ∧ (memWrite2 m a w).wf

/-- R89, R90 (the spec's decision D14), R55: a LOAD that fits writes its bytes, sets PC to its start (0x200
where it names none) and SC to 0 and changes nothing else; one that does not fit is answered
LOAD_TOO_LARGE and changes nothing. -/
def Obligations.LoadWritesProgramOrRefuses : Prop :=
  ∀ (s : State) (start : Option Addr) (data : List Byte), s.fsm = .idle → s.mem.wf →
    (startNat start + data.length ≤ 4096 →
      ∃ t, s.transact (.load start data) = (.ok, t) ∧
        (∀ k (h : k < data.length), t.byteAt (startNat start + k) = data[k]) ∧
        (∀ c, c < 4096 → c < startNat start ∨ startNat start + data.length ≤ c →
          t.byteAt c = s.byteAt c) ∧
        t.pc.toNat = startNat start ∧ t.sc.val = 0 ∧ (∀ k, t.slot k = s.slot k) ∧ RegsSameBut [] s t ∧
        t.i = s.i ∧ t.dt = s.dt ∧ t.st = s.st ∧ PixelsSame s t ∧ t.rnd = s.rnd ∧ t.ir = s.ir ∧
        t.fsm = .idle ∧ t.popMode = s.popMode) ∧
    (4096 < startNat start + data.length → s.transact (.load start data) = (.loadTooLarge, s))

/-- R61, R89: the STEP after a LOAD of an instruction's bytes runs that instruction, wherever they were
loaded. -/
def Obligations.LoadedInstructionRunsNext : Prop :=
  ∀ (i : Instr) (s : State) (start : Option Addr) (rest : List Byte), s.fsm = .idle → s.mem.wf →
    startNat start + 2 + rest.length ≤ 4096 →
    ∃ t, s.transact (.load start (encodeBytes i ++ rest)) = (.ok, t) ∧
      t.pc.toNat = startNat start ∧ step t = exec i { t with ir := encode i }

/-! # The rasterizer -/

/-- R132 (the spec's decisions D10, D11): pixel (x + b, y + r) is flipped exactly when sprite bit b of
row r is 1, coordinates wrapping; every other pixel, and the rest of the state, is unchanged (R93). -/
def Obligations.DrawFlipsSpritePixels : Prop :=
  ∀ (s : State) (x y : Byte) (rows : List Byte), s.fsm = .idle → rows.length ≤ 15 →
    ∃ t e, s.transact (.draw x y rows) = (.didErase e, t) ∧
      (∀ r b, r < rows.length → b < 8 →
        fbGet t.fb (x.toNat + b) (y.toNat + r) =
          (fbGet s.fb (x.toNat + b) (y.toNat + r) != spriteBit rows r b)) ∧
      (∀ px py, (∀ r b, r < rows.length → b < 8 →
          ¬((x.toNat + b) % 64 = px % 64 ∧ (y.toNat + r) % 32 = py % 32)) →
        fbGet t.fb px py = fbGet s.fb px py) ∧
      RegsSameBut [] s t ∧ t.pc = s.pc ∧ t.i = s.i ∧ StackSame s t ∧ t.rnd = s.rnd ∧ OthersSame s t

/-- R133: did_erase is true exactly when some sprite bit 1 lands on a pixel that was 1 before the
draw. -/
def Obligations.DidEraseIffPixelErased : Prop :=
  ∀ (s : State) (x y : Byte) (rows : List Byte), s.fsm = .idle → rows.length ≤ 15 →
    ∃ t e, s.transact (.draw x y rows) = (.didErase e, t) ∧
      (e = true ↔ ∃ r b, r < rows.length ∧ b < 8 ∧ spriteBit rows r b = true ∧
        fbGet s.fb (x.toNat + b) (y.toNat + r) = true)

/-- R137: drawing the same rows at the same place twice restores the whole state; the second draw erases
exactly when the first set a pixel from 0 to 1. -/
def Obligations.DrawingTwiceRestores : Prop :=
  ∀ (s : State) (x y : Byte) (rows : List Byte), s.fsm = .idle → rows.length ≤ 15 →
    ∃ t e e', s.transact (.draw x y rows) = (.didErase e, t) ∧
      t.transact (.draw x y rows) = (.didErase e', s) ∧
      (e' = true ↔ ∃ px py, fbGet s.fb px py = false ∧ fbGet t.fb px py = true)

/-- R139: the rasterizer by row words and rotated masks, one row a beat, is the pixel loop of R132. -/
def Obligations.RowMaskRasterizerIsPixelLoop : Prop :=
  ∀ (f : Framebuffer) (x y : Nat) (rows : List Byte),
    beatRows (wrapX x) (wrapY y) 0 rows (f, false) = fbDraw f x y rows

/-! # The dispatch state machine -/

/-- R96, R98: clocked from IDLE with a STEP request, the dispatch state machine answers exactly once, OK,
in the state that STEP gives, the random source's byte `b` being the one a Cxkk gets; on an unknown
opcode it answers UNKNOWN_OPCODE and leaves the state but for IR. The state machine is the spec's
decision D19; that the answer shows in the last cycle, and the number of cycles (`AnswersLast`,
`stepCycles`), are the model's choice (log entry 7). -/
def Obligations.ClockedStepRefinesStep : Prop :=
  ∀ (s : State) (b : Byte), s.fsm = .idle →
    (∀ i, decodeWord s.fetch = some i →
      ∃ t outs, step (if asksRandom i then s.offerRandom b else s) = .next t ∧
        State.ticks (stepPins b :: List.replicate (stepCycles i) (waitPins b)) s = (outs, t) ∧
        AnswersLast outs .ok) ∧
    (decodeWord s.fetch = none →
      ∃ outs, State.ticks (stepPins b :: List.replicate 4 (waitPins b)) s =
          (outs, { s with ir := s.fetch }) ∧
        AnswersLast outs (.unknownOpcode s.fetch s.fetchAddr))

/-- R96, R98: clocked with a LOAD request and its data beats, the state machine answers and leaves what
the LOAD transaction does; a LOAD that does not fit is answered at once. On the ports the start is
always named. The state machine is the spec's decision D19; that the arguments are latched in the cycle
that accepts the request is the model's inference (log entry 6), and that the answer shows in the last
cycle its choice (log entry 7). -/
def Obligations.ClockedLoadRefinesLoad : Prop :=
  (∀ (s : State) (b : Byte) (start : Addr) (data : List Byte), s.fsm = .idle →
    start.toNat + data.length ≤ 4096 →
    ∃ outs, State.ticks (loadPins start (BitVec.ofNat 13 data.length) :: waitPins b ::
        (data.map beatPins ++ [waitPins b])) s = (outs, (s.transact (.load (some start) data)).2) ∧
      AnswersLast outs (s.transact (.load (some start) data)).1) ∧
  ∀ (s : State) (b : Byte) (start : Addr) (len : BitVec 13), s.fsm = .idle →
    4096 < start.toNat + len.toNat →
    ∃ outs, State.ticks [loadPins start len, waitPins b] s = (outs, s) ∧ AnswersLast outs .loadTooLarge

/-- R96, R98, R139: clocked with a DRAW request and its row beats, the state machine answers and leaves
what the DRAW transaction does. The state machine is the spec's decision D19; that the arguments are
latched in the cycle that accepts the request is the model's inference (log entry 6), and that the answer
shows in the last cycle its choice (log entry 7). -/
def Obligations.ClockedDrawRefinesDraw : Prop :=
  ∀ (s : State) (b x y : Byte) (rows : List Byte), s.fsm = .idle → rows.length ≤ 15 →
    ∃ outs, State.ticks (drawPins x y (BitVec.ofNat 4 rows.length) ::
        (rows.map beatPins ++ [waitPins b])) s = (outs, (s.transact (.draw x y rows)).2) ∧
      AnswersLast outs (s.transact (.draw x y rows)).1

/-! # Host transactions and reset -/

/-- R91, R92, R143 (the spec's decisions D24, D17, D13): READ returns each target's value and changes
nothing, with memory addresses taken mod 4096 and pixels wrapped; WRITE_TIMER changes its timer alone;
a malformed request changes nothing. -/
def Obligations.ReadWriteTimerAndBadRequest : Prop :=
  ∀ s : State, s.fsm = .idle →
    (∀ k, s.transact (.read (.v k)) = (.value (0#8 ++ s.getV k), s)) ∧
    s.transact (.read .i) = (.value s.i, s) ∧ s.transact (.read .pc) = (.value s.pc, s) ∧
    s.transact (.read .dt) = (.value (0#8 ++ s.dt), s) ∧
    s.transact (.read .st) = (.value (0#8 ++ s.st), s) ∧
    (∃ v, s.transact (.read .sc) = (.value v, s) ∧ v.toNat = s.sc.val) ∧
    (∀ k, s.transact (.read (.slot k)) = (.value (s.slot k), s)) ∧
    (∀ a : Word, s.transact (.read (.mem a)) = (.value (0#8 ++ s.mem.read (a.toNat % 4096)), s)) ∧
    (∀ x y : Byte, s.transact (.read (.fb x y)) =
      (.value (if fbGet s.fb (x.toNat % 64) (y.toNat % 32) then 1#16 else 0#16), s)) ∧
    (∀ v, s.transact (.writeTimer .dt v) = (.ok, { s with dt := v })) ∧
    (∀ v, s.transact (.writeTimer .st v) = (.ok, { s with st := v })) ∧
    s.transact .malformed = (.badRequest, s)

/-- R39, R157, R97: RESET from any state, a transaction in progress or not, and the rst pin, leave every
piece of the core's state at its reset value, with no response. The values are the spec's decisions D1
to D3; IR's is the model's own choice (log entry 3), and so it is not stated. That the host's random
source is left as it is (`t.rnd = s.rnd`), is the model's choice too (log entry 8); that EMPTY_POP_MODE is,
follows from its being a parameter (R7; log entry 5). -/
def Obligations.ResetValuesFromAnyState : Prop :=
  ∀ (s : State) (p : PinsIn), ∀ t ∈ [(s.transact .reset).2, s.tick { p with rst := true }],
    (∀ r, t.getV r = 0x00#8) ∧ t.i = 0x0000#16 ∧ t.pc = 0x0200#16 ∧ t.dt = 0x00#8 ∧ t.st = 0x00#8 ∧
    (∀ k, t.slot k = 0x0000#16) ∧ t.sc.val = 0 ∧ (∀ a, t.byteAt a = 0x00#8) ∧
    (∀ x y, fbGet t.fb x y = false) ∧ t.fsm = .idle ∧ t.rnd = s.rnd ∧ t.popMode = s.popMode ∧
    (s.transact .reset).1 = .noResponse ∧ (s.pinsOut { p with rst := true }).rspValid = false

/-- R162: a STEP after reset, with nothing loaded, fails on the word 0x0000 at 0x0200. -/
def Obligations.StepAfterResetFails : Prop :=
  step State.reset = .fault (.unknownOpcode 0x0000#16 0x0200#16)

/-- R95, R165, R97: while a transaction is in progress a STEP is refused and no request but RESET is
seen or changes anything (log entry 11 for the form of the refusal). -/
def Obligations.BusyCoreSeesOnlyReset : Prop :=
  ∀ (s : State) (r : Request), s.fsm ≠ .idle →
    step s = .refused .busy ∧ (r ≠ .reset → s.transact r = (.notSeen, s)) ∧
    ∀ p : PinsIn, (s.pinsOut p).reqReady = false

/-! # Invariants -/

/-- The invariant holds right after reset, and EMPTY_POP_MODE is this hardware's ZERO (R7). -/
def Obligations.ResetMeetsInvariant : Prop := Inv State.reset ∧ State.reset.popMode = .zero

/-- Every STEP keeps the invariant, and EMPTY_POP_MODE (a parameter, R7; log entry 5). -/
def Obligations.StepKeepsInvariant : Prop :=
  ∀ s t : State, Inv s → step s = .next t → Inv t ∧ t.popMode = s.popMode

/-- Every transaction keeps the invariant, and EMPTY_POP_MODE (a parameter, R7; log entry 5). -/
def Obligations.TransactionKeepsInvariant : Prop :=
  ∀ (r : Request) (s : State), Inv s → Inv (s.transact r).2 ∧ (s.transact r).2.popMode = s.popMode

/-- Every rising edge of the clock keeps the invariant, whatever is on the pins, and EMPTY_POP_MODE (a
parameter, R7; log entry 5). -/
def Obligations.ClockEdgeKeepsInvariant : Prop :=
  ∀ (p : PinsIn) (s : State), Inv s → Inv (s.tick p) ∧ (s.tick p).popMode = s.popMode
end

