-- ==== Sys2Proof/Laws/Display.lean ====
section
/-! SUPPORT. The plane and the rasterizer, pixel by pixel: what a later proof cites instead of unfolding row
words. -/

namespace Sys2Proof.Machine

@[simp] theorem wrapX_wrapX (x : Nat) : wrapX (wrapX x) = wrapX x := Nat.mod_mod _ _

@[simp] theorem wrapY_wrapY (y : Nat) : wrapY (wrapY y) = wrapY y := Nat.mod_mod _ _

/-- A row word after one is replaced. -/
theorem rowWord_setRow (f : Framebuffer) (y y' : Nat) (w : BitVec 64) :
    (f.setRow y w).rowWord y' = if wrapY y' = wrapY y then w else f.rowWord y' := by
  rw [Framebuffer.setRow, Framebuffer.rowWord, Vector.getElem_set]
  simp only [eq_comm (a := wrapY y)]; rfl

/-- A pixel after a row word is replaced. -/
theorem fbGet_setRow (f : Framebuffer) (x y y' : Nat) (w : BitVec 64) :
    fbGet (f.setRow y w) x y' = if wrapY y' = wrapY y then w.getMsbD (wrapX x) else fbGet f x y' := by
  rw [fbGet, rowWord_setRow]; split <;> rfl

/-- Rows wrap. -/
theorem rowWord_congr (f : Framebuffer) {y y' : Nat} (hy : wrapY y = wrapY y') :
    f.rowWord y = f.rowWord y' := by
  unfold Framebuffer.rowWord; congr 1

/-- Pixels wrap. -/
theorem fbGet_congr (f : Framebuffer) {x x' y y' : Nat} (hx : wrapX x = wrapX x')
    (hy : wrapY y = wrapY y') :
    fbGet f x y = fbGet f x' y' := by
  rw [fbGet, fbGet, hx, rowWord_congr f hy]

/-- A plane is its pixels. -/
theorem fb_ext {f g : Framebuffer} (h : ∀ x y, fbGet f x y = fbGet g x y) : f = g := by
  refine Vector.ext fun y hy => BitVec.eq_of_getMsbD_eq fun x hx => ?_
  have := h x y
  simpa [fbGet, Framebuffer.rowWord, wrapX, wrapY, Nat.mod_eq_of_lt hx, Nat.mod_eq_of_lt hy] using this

/-- FbClear's pixels. -/
@[simp] theorem fbGet_fbClear (x y : Nat) : fbGet fbClear x y = false := by
  simp [fbGet, Framebuffer.rowWord, fbClear]

/-- A flip flips its pixel and no other. -/
theorem fbGet_fbFlip (f : Framebuffer) (a b x y : Nat) :
    fbGet (fbFlip f a b) x y = (fbGet f x y != decide (wrapX x = wrapX a ∧ wrapY y = wrapY b)) := by
  have ha := wrapX_lt a
  have hx := wrapX_lt x
  rw [fbFlip, fbGet_setRow]
  by_cases h : wrapY y = wrapY b
  · have h2 : 63 - wrapX a = 64 - 1 - wrapX x ↔ wrapX x = wrapX a := by omega
    have h3 : 63 - wrapX a < 64 := by omega
    simp only [h, if_true, and_true]
    rw [BitVec.getMsbD_xor, BitVec.getMsbD, BitVec.getMsbD, BitVec.getLsbD_twoPow,
      (decide_eq_decide.mpr h2 :
        decide (63 - wrapX a = 64 - 1 - wrapX x) = decide (wrapX x = wrapX a)),
      fbGet, rowWord_congr f h, BitVec.getMsbD]
    simp [hx, h3]
  · simp [h]

/-- Column x of the mask M is a 1 exactly when sprite bit b of the row is 1 for the b with x0 + b = x mod
64. -/
theorem rowMask_getMsbD (row : Byte) (x0 : Nat) {x : Nat} (hx : x < 64) :
    (rowMask row x0).getMsbD x = true ↔ ∃ b < 8, row.getLsbD (7 - b) = true ∧ wrapX (x0 + b) = x := by
  have key : ∀ c, c < 64 → (row ++ 0#56 : BitVec 64).getMsbD c =
      (decide (c < 8) && row.getLsbD (7 - c)) := by
    intro c hc
    rw [BitVec.getMsbD_append]
    by_cases h : c < 8
    · simp [h, BitVec.getMsbD]
    · simp [h, show 8 ≤ c by omega]
  have hm : (rowMask row x0).getMsbD x = (decide ((x + (64 - wrapX x0)) % 64 < 8) &&
      row.getLsbD (7 - (x + (64 - wrapX x0)) % 64)) := by
    have h0 := wrapX_lt x0
    rw [← key _ (Nat.mod_lt _ (by decide)), rowMask, BitVec.getMsbD_rotateRight]
    simp only [wrapX, Config.screenW] at *
    split
    · next h =>
      rw [show (x + (64 - x0 % 64)) % 64 = (64 + x - x0 % 64) % 64 by omega]; simp [hx]
    · next h =>
      rw [show (x + (64 - x0 % 64)) % 64 = x - x0 % 64 by omega]; simp [hx]
  have hb : ∀ b < 8, wrapX (x0 + b) = x ↔ (x + (64 - wrapX x0)) % 64 = b := by
    intro b hb; simp only [wrapX, Config.screenW]; omega
  rw [hm, Bool.and_eq_true, decide_eq_true_eq]
  constructor
  · intro ⟨h1, h2⟩
    exact ⟨_, h1, h2, (hb _ h1).mpr rfl⟩
  · rintro ⟨b, hlt, h2, h3⟩
    rw [(hb b hlt).mp h3]
    exact ⟨hlt, h2⟩

/-- The first n bits of a sprite row: which pixels they flip and whether one of them erases. -/
theorem drawBits_spec (row : Byte) (x0 yy : Nat) (acc : Framebuffer × Bool) {n : Nat} (hn : n ≤ 8) :
    (∀ x y, fbGet ((List.range n).foldl (drawBit row x0 yy) acc).1 x y =
      (fbGet acc.1 x y != decide (wrapY y = wrapY yy ∧
        ∃ b < n, row.getLsbD (7 - b) = true ∧ wrapX (x0 + b) = wrapX x))) ∧
    ((List.range n).foldl (drawBit row x0 yy) acc).2 =
      (acc.2 || decide (∃ b < n, row.getLsbD (7 - b) = true ∧ fbGet acc.1 (x0 + b) yy = true)) := by
  induction n with
  | zero => simp
  | succ n ih =>
    obtain ⟨ih1, ih2⟩ := ih (by omega)
    rw [List.range_succ, List.foldl_append, List.foldl_cons, List.foldl_nil]
    have hno : ¬ ∃ b < n, row.getLsbD (7 - b) = true ∧ wrapX (x0 + b) = wrapX (x0 + n) := by
      rintro ⟨b, hb, -, h⟩; simp only [wrapX, Config.screenW] at h; omega
    have hsame := ih1 (x0 + n) yy
    rw [decide_eq_false (by rintro ⟨-, h⟩; exact hno h), Bool.bne_false] at hsame
    generalize (List.range n).foldl (drawBit row x0 yy) acc = r at *
    simp only [Nat.exists_lt_succ_right]
    by_cases hb : row.getLsbD (7 - n) = true
    · simp only [drawBit, hb, if_true, true_and]
      refine ⟨fun x y => ?_, ?_⟩
      · rw [fbGet_fbFlip, ih1]
        by_cases hx : wrapX x = wrapX (x0 + n)
        · rw [hx, decide_eq_false (p := _ ∧ ∃ b < n, _) (by rintro ⟨-, h⟩; exact hno h)]
          simp [hno, and_comm]
        · simp [hx, Ne.symm hx]
      · rw [ih2, hsame]; simp [Bool.or_assoc]
    · simpa [drawBit, hb] using And.intro ih1 ih2

/-- One sprite row: which pixels it flips and whether it erases. -/
theorem drawRow_spec (row : Byte) (x0 yy : Nat) (acc : Framebuffer × Bool) :
    (∀ x y, fbGet (drawRow row x0 yy acc).1 x y =
      (fbGet acc.1 x y != decide (wrapY y = wrapY yy ∧
        ∃ b : Nat, b < 8 ∧ row.getLsbD (7 - b) = true ∧ wrapX (x0 + b) = wrapX x))) ∧
    (drawRow row x0 yy acc).2 =
      (acc.2 || decide (∃ b : Nat, b < 8 ∧ row.getLsbD (7 - b) = true ∧
        fbGet acc.1 (x0 + b) yy = true)) :=
  drawBits_spec row x0 yy acc (Nat.le_refl _)

/-- The rows of a sprite, at most one per row of the plane: which pixels they flip and whether one of
their bits lands on a pixel that was 1 before them all. -/
theorem drawRows_spec (x0 y0 r0 : Nat) (rows : List Byte) (acc : Framebuffer × Bool)
    (hlen : rows.length ≤ 32) :
    (∀ x y, fbGet (drawRows x0 y0 r0 rows acc).1 x y =
      (fbGet acc.1 x y != decide (∃ r : Nat, r < rows.length ∧ wrapY y = wrapY (y0 + r0 + r) ∧
        ∃ b : Nat, b < 8 ∧ (rows[r]?.getD 0#8).getLsbD (7 - b) = true ∧ wrapX (x0 + b) = wrapX x))) ∧
    (drawRows x0 y0 r0 rows acc).2 =
      (acc.2 || decide (∃ r : Nat, r < rows.length ∧ ∃ b : Nat, b < 8 ∧
        (rows[r]?.getD 0#8).getLsbD (7 - b) = true ∧
        fbGet acc.1 (x0 + b) (y0 + r0 + r) = true)) := by
  induction rows generalizing r0 acc with
  | nil => simp [drawRows]
  | cons row rows ih =>
    obtain ⟨d1, d2⟩ := drawRow_spec row x0 (wrapY (y0 + r0)) acc
    simp only [List.length_cons] at hlen
    obtain ⟨i1, i2⟩ := ih (r0 + 1) (drawRow row x0 (wrapY (y0 + r0)) acc) (by omega)
    have cut : ∀ P : Nat → Prop,
        (∃ r, r < rows.length + 1 ∧ P r) ↔ P 0 ∨ ∃ r, r < rows.length ∧ P (r + 1) := fun P => Nat.exists_lt_succ_left
    have ar : ∀ r, y0 + (r0 + 1) + r = y0 + r0 + (r + 1) := by omega
    simp only [drawRows, List.length_cons, cut, List.getElem?_cons_zero,
      Option.getD_some, List.getElem?_cons_succ, Nat.add_zero]
    refine ⟨fun x y => ?_, ?_⟩
    · rw [i1, d1]
      simp only [wrapY_wrapY, ar]
      by_cases hy : wrapY y = wrapY (y0 + r0)
      · have hno : ¬ ∃ r : Nat, r < rows.length ∧ wrapY y = wrapY (y0 + r0 + (r + 1)) ∧
          ∃ b : Nat, b < 8 ∧ (rows[r]?.getD 0#8).getLsbD (7 - b) = true ∧ wrapX (x0 + b) = wrapX x := by
          rintro ⟨r, hr, h, -⟩; rw [hy] at h; simp only [wrapY, Config.screenH] at h; omega
        rw [hy] at hno
        simp only [hno, hy, true_and, or_false, decide_false, Bool.bne_false]
      · simp only [hy, false_and, false_or, decide_false, Bool.bne_false]
    · rw [i2, d2]
      have same : ∀ r, r < rows.length → ∀ b,
          fbGet (drawRow row x0 (wrapY (y0 + r0)) acc).1 (x0 + b) (y0 + r0 + (r + 1)) =
            fbGet acc.1 (x0 + b) (y0 + r0 + (r + 1)) := by
        intro r hr b
        rw [d1, decide_eq_false, Bool.bne_false]
        rintro ⟨h, -⟩; simp only [wrapY, Config.screenH] at h; omega
      have e2 : (∃ r : Nat, r < rows.length ∧ ∃ b : Nat, b < 8 ∧
          (rows[r]?.getD 0#8).getLsbD (7 - b) = true ∧
          fbGet (drawRow row x0 (wrapY (y0 + r0)) acc).1 (x0 + b) (y0 + r0 + (r + 1)) = true) ↔
          ∃ r : Nat, r < rows.length ∧ ∃ b : Nat, b < 8 ∧
          (rows[r]?.getD 0#8).getLsbD (7 - b) = true ∧
          fbGet acc.1 (x0 + b) (y0 + r0 + (r + 1)) = true := by
        constructor <;> rintro ⟨r, hr, b, hb, h1, h2⟩ <;> refine ⟨r, hr, b, hb, h1, ?_⟩
        · rwa [same r hr] at h2
        · rwa [same r hr]
      have e3 : ∀ b, fbGet acc.1 (x0 + b) (wrapY (y0 + r0)) = fbGet acc.1 (x0 + b) (y0 + r0) :=
        fun b => fbGet_congr _ rfl (wrapY_wrapY _)
      simp only [ar, e2, e3, Bool.decide_or, Bool.or_assoc]

end Sys2Proof.Machine
end

