-- ==== Sys2Proof/Laws/Decode.lean ====
section
/-! SUPPORT. The decoder as a function of the word's four nibbles, equal to the scan of the handler
table; the handler table's rows are mutually exclusive. -/

namespace Sys2Proof

/-- The word whose nibbles are c, x, y, n, the first the most significant. -/
abbrev nibbles (c x y n : BitVec 4) : Word := c ++ (x ++ (y ++ n : BitVec 8) : BitVec 12)

/-- A word of four bits more than a given width is its high nibble and the rest. -/
theorem append_surj {w : Nat} (z : BitVec (4 + w)) : ∃ (c : BitVec 4) (r : BitVec w), z = c ++ r := by
  refine ⟨z.extractLsb' w 4, z.setWidth w, BitVec.eq_of_getLsbD_eq fun i hi => ?_⟩
  rw [BitVec.getLsbD_append]
  by_cases h : i < w
  · simp [h]
  · simp [h, show i - w < 4 by omega, show w + (i - w) = i by omega]

/-- Every word is its four nibbles. -/
theorem nibbles_surj (w : Word) : ∃ c x y n, w = nibbles c x y n := by
  obtain ⟨c, z, rfl⟩ := append_surj (w := 12) w
  obtain ⟨x, z, rfl⟩ := append_surj (w := 8) z
  obtain ⟨y, n, rfl⟩ := append_surj (w := 4) z
  exact ⟨c, x, y, n, rfl⟩

/-- The number a word stands for, by its nibbles. -/
theorem nibbles_toNat (c x y n : BitVec 4) :
    (nibbles c x y n).toNat = c.toNat * 0x1000 + x.toNat * 0x100 + y.toNat * 0x10 + n.toNat := by
  have hn := n.isLt
  have hyn : (y ++ n : BitVec 8).toNat = y.toNat * 0x10 + n.toNat := by
    rw [BitVec.toNat_append, ← Nat.shiftLeft_add_eq_or_of_lt hn, Nat.shiftLeft_eq]
  have hxyn : (x ++ (y ++ n : BitVec 8) : BitVec 12).toNat =
      x.toNat * 0x100 + y.toNat * 0x10 + n.toNat := by
    rw [BitVec.toNat_append, ← Nat.shiftLeft_add_eq_or_of_lt (y ++ n : BitVec 8).isLt, Nat.shiftLeft_eq,
      hyn]
    omega
  rw [nibbles, BitVec.toNat_append,
    ← Nat.shiftLeft_add_eq_or_of_lt (x ++ (y ++ n : BitVec 8) : BitVec 12).isLt, Nat.shiftLeft_eq, hxyn]
  omega

/-! ## Fields -/

variable (c x y n : BitVec 4)

@[simp] theorem fieldNNN_nibbles : fieldNNN (nibbles c x y n) = x ++ (y ++ n : BitVec 8) :=
  BitVec.extractLsb'_append_eq_right

@[simp] theorem fieldKK_nibbles : fieldKK (nibbles c x y n) = y ++ n := by
  rw [fieldKK, nibbles, BitVec.extractLsb'_append_eq_of_add_le (by omega),
    BitVec.extractLsb'_append_eq_right]

@[simp] theorem fieldX_nibbles : fieldX (nibbles c x y n) = x := by
  rw [fieldX, nibbles, BitVec.extractLsb'_append_eq_of_add_le (by omega),
    BitVec.extractLsb'_append_eq_left]

@[simp] theorem fieldY_nibbles : fieldY (nibbles c x y n) = y := by
  rw [fieldY, nibbles, BitVec.extractLsb'_append_eq_of_add_le (by omega),
    BitVec.extractLsb'_append_eq_of_add_le (by omega), BitVec.extractLsb'_append_eq_left]

/-! ## Matching -/

/-- Two concatenations are equal when their parts are. -/
theorem append_eq_append {v w : Nat} {a a' : BitVec v} {b b' : BitVec w} :
    a ++ b = a' ++ b' ↔ a = a' ∧ b = b' := by
  refine ⟨fun h => ⟨?_, ?_⟩, fun ⟨h, h'⟩ => h ▸ h' ▸ rfl⟩
  · simpa only [BitVec.extractLsb'_append_eq_left] using congrArg (BitVec.extractLsb' w v) h
  · simpa only [BitVec.extractLsb'_append_eq_right] using congrArg (BitVec.extractLsb' 0 w) h

/-- Words are equal when their nibbles are. -/
theorem nibbles_inj {c x y n c' x' y' n' : BitVec 4} :
    nibbles c x y n = nibbles c' x' y' n' ↔ c = c' ∧ x = x' ∧ y = y' ∧ n = n' := by
  rw [nibbles, nibbles, append_eq_append, append_eq_append, append_eq_append]

/-- Masking a word masks its nibbles. -/
theorem nibbles_and (c' x' y' n' : BitVec 4) :
    nibbles c x y n &&& nibbles c' x' y' n' = nibbles (c &&& c') (x &&& x') (y &&& y') (n &&& n') := by
  rw [nibbles, nibbles, BitVec.and_append, BitVec.and_append, BitVec.and_append]

theorem nibble_and_zero (a : BitVec 4) : a &&& 0x0#4 = 0x0#4 := BitVec.and_zero

theorem nibble_and_ones (a : BitVec 4) : a &&& 0xF#4 = a := BitVec.and_allOnes

/-- A pattern that fixes the class nibble alone (formats A and XK). -/
theorem match_class (k : BitVec 4) :
    (nibbles c x y n &&& 0xF000#16 == nibbles k 0#4 0#4 0#4) = decide (c = k) := by
  rw [show (0xF000#16 : Word) = nibbles 0xF#4 0#4 0#4 0#4 from rfl, nibbles_and]
  simp only [nibble_and_zero, nibble_and_ones]
  exact decide_eq_decide.mpr (by simp [nibbles_inj])

/-- A pattern that fixes the class nibble and the low nibble (formats XY and X). -/
theorem match_class_low (k j : BitVec 4) :
    (nibbles c x y n &&& 0xF00F#16 == nibbles k 0#4 0#4 j) = decide (c = k ∧ n = j) := by
  rw [show (0xF00F#16 : Word) = nibbles 0xF#4 0#4 0#4 0xF#4 from rfl, nibbles_and]
  simp only [nibble_and_zero, nibble_and_ones]
  exact decide_eq_decide.mpr (by simp [nibbles_inj])

/-- A pattern that fixes the whole word (format Z). -/
theorem match_whole (k i j l : BitVec 4) :
    (nibbles c x y n &&& 0xFFFF#16 == nibbles k i j l) = decide (c = k ∧ x = i ∧ y = j ∧ n = l) := by
  rw [show (0xFFFF#16 : Word) = nibbles 0xF#4 0xF#4 0xF#4 0xF#4 from rfl, nibbles_and]
  simp only [nibble_and_ones]
  exact decide_eq_decide.mpr nibbles_inj

/-- The instruction a word of given nibbles stands for, by its class nibble. -/
def decodeNibbles (c x y n : BitVec 4) : Option Instr :=
  if c = 0x0#4 then
    if x = 0x0#4 ∧ y = 0xE#4 then
      if n = 0x0#4 then some .cls else if n = 0xE#4 then some .ret else none
    else none
  else if c = 0x1#4 then some (.jp (x ++ (y ++ n : BitVec 8)))
  else if c = 0x2#4 then some (.call (x ++ (y ++ n : BitVec 8)))
  else if c = 0x3#4 then some (.seByte x (y ++ n))
  else if c = 0x4#4 then some (.sneByte x (y ++ n))
  else if c = 0x5#4 then if n = 0x0#4 then some (.seReg x y) else none
  else if c = 0x6#4 then some (.ldByte x (y ++ n))
  else if c = 0x7#4 then some (.addByte x (y ++ n))
  else if c = 0x8#4 then
    if n = 0x0#4 then some (.ldReg x y)
    else if n = 0x1#4 then some (.orReg x y)
    else if n = 0x2#4 then some (.andReg x y)
    else if n = 0x3#4 then some (.xorReg x y)
    else if n = 0x4#4 then some (.addReg x y)
    else if n = 0x5#4 then some (.subReg x y)
    else if n = 0x6#4 then some (.shr x y)
    else if n = 0x7#4 then some (.subnReg x y)
    else if n = 0xE#4 then some (.shl x y)
    else none
  else if c = 0x9#4 then if n = 0x0#4 then some (.sneReg x y) else none
  else if c = 0xA#4 then some (.ldI (x ++ (y ++ n : BitVec 8)))
  else if c = 0xB#4 then some (.jpV0 (x ++ (y ++ n : BitVec 8)))
  else if c = 0xC#4 then some (.rnd x (y ++ n))
  else none

/-- The 16 values of a nibble. -/
theorem nibble_cases (a : BitVec 4) :
    a = 0x0#4 ∨ a = 0x1#4 ∨ a = 0x2#4 ∨ a = 0x3#4 ∨ a = 0x4#4 ∨ a = 0x5#4 ∨ a = 0x6#4 ∨ a = 0x7#4 ∨
      a = 0x8#4 ∨ a = 0x9#4 ∨ a = 0xA#4 ∨ a = 0xB#4 ∨ a = 0xC#4 ∨ a = 0xD#4 ∨ a = 0xE#4 ∨ a = 0xF#4 := by
  revert a; decide

/-- The scan, one entry at a time. -/
theorem scan_cons (e : Entry) (es : List Entry) (op : Word) :
    ((e :: es).find? (·.isMatch op)).map (·.build op) =
      if e.isMatch op then some (e.build op) else (es.find? (·.isMatch op)).map (·.build op) := by
  cases h : e.isMatch op <;> simp [List.find?, h]

/-- The scan of the handler table, by nibbles. -/
theorem decodeWord_nibbles : decodeWord (nibbles c x y n) = decodeNibbles c x y n := by
  unfold decodeWord handlerTable controlEntries aluEntries lastEntries
  simp only [List.cons_append, List.nil_append, scan_cons, List.find?_nil, Option.map_none]
  simp only [Entry.isMatch, fieldNNN_nibbles, fieldKK_nibbles, fieldX_nibbles, fieldY_nibbles,
    show (nibbles c x y n &&& 0xF000#16 == 0x1000#16) = decide (c = 0x1#4)
      from match_class c x y n 0x1#4,
    show (nibbles c x y n &&& 0xF000#16 == 0x2000#16) = decide (c = 0x2#4)
      from match_class c x y n 0x2#4,
    show (nibbles c x y n &&& 0xF000#16 == 0x3000#16) = decide (c = 0x3#4)
      from match_class c x y n 0x3#4,
    show (nibbles c x y n &&& 0xF000#16 == 0x4000#16) = decide (c = 0x4#4)
      from match_class c x y n 0x4#4,
    show (nibbles c x y n &&& 0xF000#16 == 0x6000#16) = decide (c = 0x6#4)
      from match_class c x y n 0x6#4,
    show (nibbles c x y n &&& 0xF000#16 == 0x7000#16) = decide (c = 0x7#4)
      from match_class c x y n 0x7#4,
    show (nibbles c x y n &&& 0xF000#16 == 0xA000#16) = decide (c = 0xA#4)
      from match_class c x y n 0xA#4,
    show (nibbles c x y n &&& 0xF000#16 == 0xB000#16) = decide (c = 0xB#4)
      from match_class c x y n 0xB#4,
    show (nibbles c x y n &&& 0xF000#16 == 0xC000#16) = decide (c = 0xC#4)
      from match_class c x y n 0xC#4,
    show (nibbles c x y n &&& 0xF00F#16 == 0x5000#16) = decide (c = 0x5#4 ∧ n = 0x0#4)
      from match_class_low c x y n 0x5#4 0x0#4,
    show (nibbles c x y n &&& 0xF00F#16 == 0x9000#16) = decide (c = 0x9#4 ∧ n = 0x0#4)
      from match_class_low c x y n 0x9#4 0x0#4,
    show (nibbles c x y n &&& 0xF00F#16 == 0x8000#16) = decide (c = 0x8#4 ∧ n = 0x0#4)
      from match_class_low c x y n 0x8#4 0x0#4,
    show (nibbles c x y n &&& 0xF00F#16 == 0x8001#16) = decide (c = 0x8#4 ∧ n = 0x1#4)
      from match_class_low c x y n 0x8#4 0x1#4,
    show (nibbles c x y n &&& 0xF00F#16 == 0x8002#16) = decide (c = 0x8#4 ∧ n = 0x2#4)
      from match_class_low c x y n 0x8#4 0x2#4,
    show (nibbles c x y n &&& 0xF00F#16 == 0x8003#16) = decide (c = 0x8#4 ∧ n = 0x3#4)
      from match_class_low c x y n 0x8#4 0x3#4,
    show (nibbles c x y n &&& 0xF00F#16 == 0x8004#16) = decide (c = 0x8#4 ∧ n = 0x4#4)
      from match_class_low c x y n 0x8#4 0x4#4,
    show (nibbles c x y n &&& 0xF00F#16 == 0x8005#16) = decide (c = 0x8#4 ∧ n = 0x5#4)
      from match_class_low c x y n 0x8#4 0x5#4,
    show (nibbles c x y n &&& 0xF00F#16 == 0x8006#16) = decide (c = 0x8#4 ∧ n = 0x6#4)
      from match_class_low c x y n 0x8#4 0x6#4,
    show (nibbles c x y n &&& 0xF00F#16 == 0x8007#16) = decide (c = 0x8#4 ∧ n = 0x7#4)
      from match_class_low c x y n 0x8#4 0x7#4,
    show (nibbles c x y n &&& 0xF00F#16 == 0x800E#16) = decide (c = 0x8#4 ∧ n = 0xE#4)
      from match_class_low c x y n 0x8#4 0xE#4,
    show (nibbles c x y n &&& 0xFFFF#16 == 0x00E0#16) = decide (c = 0x0#4 ∧ x = 0x0#4 ∧ y = 0xE#4 ∧ n = 0x0#4)
      from match_whole c x y n 0x0#4 0x0#4 0xE#4 0x0#4,
    show (nibbles c x y n &&& 0xFFFF#16 == 0x00EE#16) = decide (c = 0x0#4 ∧ x = 0x0#4 ∧ y = 0xE#4 ∧ n = 0xE#4)
      from match_whole c x y n 0x0#4 0x0#4 0xE#4 0xE#4,
    decide_eq_true_eq]
  rcases nibble_cases c with h | h | h | h | h | h | h | h | h | h | h | h | h | h | h | h <;> subst h <;>
    simp [decodeNibbles, ← and_assoc, ite_and]
  by_cases hx : x = 0x0#4 <;> by_cases hy : y = 0xE#4 <;> simp [hx, hy]

/-! ## Bytes -/

/-- A word is its two bytes, the high byte first. -/
@[simp] theorem wordOfBytes_hi_lo (w : Word) : wordOfBytes (hiByte w) (loByte w) = w := by
  obtain ⟨hi, lo, rfl⟩ : ∃ hi lo : Byte, w = hi ++ lo :=
    ⟨w.extractLsb' 8 8, w.setWidth 8, BitVec.eq_of_getLsbD_eq fun i hi => by
      rw [BitVec.getLsbD_append]
      by_cases h : i < 8
      · simp [h]
      · simp [h, show i - 8 < 8 by omega, show 8 + (i - 8) = i by omega]⟩
  rw [hiByte, loByte, BitVec.extractLsb'_append_eq_left, BitVec.extractLsb'_append_eq_right]
  rfl

@[simp] theorem hiByte_wordOfBytes (hi lo : Byte) : hiByte (wordOfBytes hi lo) = hi :=
  BitVec.extractLsb'_append_eq_left

@[simp] theorem loByte_wordOfBytes (hi lo : Byte) : loByte (wordOfBytes hi lo) = lo :=
  BitVec.extractLsb'_append_eq_right

/-- Decoding the bytes of a word decodes the word. -/
theorem decode_bytesOfWord (w : Word) (rest : List Byte) :
    decode (bytesOfWord w ++ rest) =
      match decodeWord w with
      | some i => .ok (i, rest)
      | none => .error (.unknownOpcode w) := by
  cases h : decodeWord w <;> simp [bytesOfWord, decode, h]

end Sys2Proof
end

