-- ==== Sys2Proof/Laws/State.lean ====
section
/-! SUPPORT. What each named update does to each field of the state, and how the accessors read through
the updates. No later proof unfolds a record update. -/

namespace Sys2Proof.Machine

variable (s : State)

/-! ## Fields -/

@[simp] theorem State.setV_v (x : RegIdx) (b : Byte) : (s.setV x b).v = s.v.set x.toNat b x.isLt := rfl
@[simp] theorem State.setV_i (x : RegIdx) (b : Byte) : (s.setV x b).i = s.i := rfl
@[simp] theorem State.setV_pc (x : RegIdx) (b : Byte) : (s.setV x b).pc = s.pc := rfl
@[simp] theorem State.setV_dt (x : RegIdx) (b : Byte) : (s.setV x b).dt = s.dt := rfl
@[simp] theorem State.setV_st (x : RegIdx) (b : Byte) : (s.setV x b).st = s.st := rfl
@[simp] theorem State.setV_stack (x : RegIdx) (b : Byte) : (s.setV x b).stack = s.stack := rfl
@[simp] theorem State.setV_sc (x : RegIdx) (b : Byte) : (s.setV x b).sc = s.sc := rfl
@[simp] theorem State.setV_mem (x : RegIdx) (b : Byte) : (s.setV x b).mem = s.mem := rfl
@[simp] theorem State.setV_fb (x : RegIdx) (b : Byte) : (s.setV x b).fb = s.fb := rfl
@[simp] theorem State.setV_ir (x : RegIdx) (b : Byte) : (s.setV x b).ir = s.ir := rfl
@[simp] theorem State.setV_fsm (x : RegIdx) (b : Byte) : (s.setV x b).fsm = s.fsm := rfl
@[simp] theorem State.setV_rnd (x : RegIdx) (b : Byte) : (s.setV x b).rnd = s.rnd := rfl
@[simp] theorem State.setV_popMode (x : RegIdx) (b : Byte) : (s.setV x b).popMode = s.popMode := rfl

@[simp] theorem State.setI_v (w : Word) : (s.setI w).v = s.v := rfl
@[simp] theorem State.setI_i (w : Word) : (s.setI w).i = w := rfl
@[simp] theorem State.setI_pc (w : Word) : (s.setI w).pc = s.pc := rfl
@[simp] theorem State.setI_dt (w : Word) : (s.setI w).dt = s.dt := rfl
@[simp] theorem State.setI_st (w : Word) : (s.setI w).st = s.st := rfl
@[simp] theorem State.setI_stack (w : Word) : (s.setI w).stack = s.stack := rfl
@[simp] theorem State.setI_sc (w : Word) : (s.setI w).sc = s.sc := rfl
@[simp] theorem State.setI_mem (w : Word) : (s.setI w).mem = s.mem := rfl
@[simp] theorem State.setI_fb (w : Word) : (s.setI w).fb = s.fb := rfl
@[simp] theorem State.setI_ir (w : Word) : (s.setI w).ir = s.ir := rfl
@[simp] theorem State.setI_fsm (w : Word) : (s.setI w).fsm = s.fsm := rfl
@[simp] theorem State.setI_rnd (w : Word) : (s.setI w).rnd = s.rnd := rfl
@[simp] theorem State.setI_popMode (w : Word) : (s.setI w).popMode = s.popMode := rfl

@[simp] theorem State.setPc_v (w : Word) : (s.setPc w).v = s.v := rfl
@[simp] theorem State.setPc_i (w : Word) : (s.setPc w).i = s.i := rfl
@[simp] theorem State.setPc_pc (w : Word) : (s.setPc w).pc = w := rfl
@[simp] theorem State.setPc_dt (w : Word) : (s.setPc w).dt = s.dt := rfl
@[simp] theorem State.setPc_st (w : Word) : (s.setPc w).st = s.st := rfl
@[simp] theorem State.setPc_stack (w : Word) : (s.setPc w).stack = s.stack := rfl
@[simp] theorem State.setPc_sc (w : Word) : (s.setPc w).sc = s.sc := rfl
@[simp] theorem State.setPc_mem (w : Word) : (s.setPc w).mem = s.mem := rfl
@[simp] theorem State.setPc_fb (w : Word) : (s.setPc w).fb = s.fb := rfl
@[simp] theorem State.setPc_ir (w : Word) : (s.setPc w).ir = s.ir := rfl
@[simp] theorem State.setPc_fsm (w : Word) : (s.setPc w).fsm = s.fsm := rfl
@[simp] theorem State.setPc_rnd (w : Word) : (s.setPc w).rnd = s.rnd := rfl
@[simp] theorem State.setPc_popMode (w : Word) : (s.setPc w).popMode = s.popMode := rfl

@[simp] theorem State.setDt_v (b : Byte) : (s.setDt b).v = s.v := rfl
@[simp] theorem State.setDt_i (b : Byte) : (s.setDt b).i = s.i := rfl
@[simp] theorem State.setDt_pc (b : Byte) : (s.setDt b).pc = s.pc := rfl
@[simp] theorem State.setDt_dt (b : Byte) : (s.setDt b).dt = b := rfl
@[simp] theorem State.setDt_st (b : Byte) : (s.setDt b).st = s.st := rfl
@[simp] theorem State.setDt_stack (b : Byte) : (s.setDt b).stack = s.stack := rfl
@[simp] theorem State.setDt_sc (b : Byte) : (s.setDt b).sc = s.sc := rfl
@[simp] theorem State.setDt_mem (b : Byte) : (s.setDt b).mem = s.mem := rfl
@[simp] theorem State.setDt_fb (b : Byte) : (s.setDt b).fb = s.fb := rfl
@[simp] theorem State.setDt_ir (b : Byte) : (s.setDt b).ir = s.ir := rfl
@[simp] theorem State.setDt_fsm (b : Byte) : (s.setDt b).fsm = s.fsm := rfl
@[simp] theorem State.setDt_rnd (b : Byte) : (s.setDt b).rnd = s.rnd := rfl
@[simp] theorem State.setDt_popMode (b : Byte) : (s.setDt b).popMode = s.popMode := rfl

@[simp] theorem State.setSt_v (b : Byte) : (s.setSt b).v = s.v := rfl
@[simp] theorem State.setSt_i (b : Byte) : (s.setSt b).i = s.i := rfl
@[simp] theorem State.setSt_pc (b : Byte) : (s.setSt b).pc = s.pc := rfl
@[simp] theorem State.setSt_dt (b : Byte) : (s.setSt b).dt = s.dt := rfl
@[simp] theorem State.setSt_st (b : Byte) : (s.setSt b).st = b := rfl
@[simp] theorem State.setSt_stack (b : Byte) : (s.setSt b).stack = s.stack := rfl
@[simp] theorem State.setSt_sc (b : Byte) : (s.setSt b).sc = s.sc := rfl
@[simp] theorem State.setSt_mem (b : Byte) : (s.setSt b).mem = s.mem := rfl
@[simp] theorem State.setSt_fb (b : Byte) : (s.setSt b).fb = s.fb := rfl
@[simp] theorem State.setSt_ir (b : Byte) : (s.setSt b).ir = s.ir := rfl
@[simp] theorem State.setSt_fsm (b : Byte) : (s.setSt b).fsm = s.fsm := rfl
@[simp] theorem State.setSt_rnd (b : Byte) : (s.setSt b).rnd = s.rnd := rfl
@[simp] theorem State.setSt_popMode (b : Byte) : (s.setSt b).popMode = s.popMode := rfl

@[simp] theorem State.setSlot_v (k : RegIdx) (w : Word) : (s.setSlot k w).v = s.v := rfl
@[simp] theorem State.setSlot_i (k : RegIdx) (w : Word) : (s.setSlot k w).i = s.i := rfl
@[simp] theorem State.setSlot_pc (k : RegIdx) (w : Word) : (s.setSlot k w).pc = s.pc := rfl
@[simp] theorem State.setSlot_dt (k : RegIdx) (w : Word) : (s.setSlot k w).dt = s.dt := rfl
@[simp] theorem State.setSlot_st (k : RegIdx) (w : Word) : (s.setSlot k w).st = s.st := rfl
@[simp] theorem State.setSlot_stack (k : RegIdx) (w : Word) : (s.setSlot k w).stack = s.stack.set k.toNat w k.isLt := rfl
@[simp] theorem State.setSlot_sc (k : RegIdx) (w : Word) : (s.setSlot k w).sc = s.sc := rfl
@[simp] theorem State.setSlot_mem (k : RegIdx) (w : Word) : (s.setSlot k w).mem = s.mem := rfl
@[simp] theorem State.setSlot_fb (k : RegIdx) (w : Word) : (s.setSlot k w).fb = s.fb := rfl
@[simp] theorem State.setSlot_ir (k : RegIdx) (w : Word) : (s.setSlot k w).ir = s.ir := rfl
@[simp] theorem State.setSlot_fsm (k : RegIdx) (w : Word) : (s.setSlot k w).fsm = s.fsm := rfl
@[simp] theorem State.setSlot_rnd (k : RegIdx) (w : Word) : (s.setSlot k w).rnd = s.rnd := rfl
@[simp] theorem State.setSlot_popMode (k : RegIdx) (w : Word) : (s.setSlot k w).popMode = s.popMode := rfl

@[simp] theorem State.setSc_v (n : Fin 17) : (s.setSc n).v = s.v := rfl
@[simp] theorem State.setSc_i (n : Fin 17) : (s.setSc n).i = s.i := rfl
@[simp] theorem State.setSc_pc (n : Fin 17) : (s.setSc n).pc = s.pc := rfl
@[simp] theorem State.setSc_dt (n : Fin 17) : (s.setSc n).dt = s.dt := rfl
@[simp] theorem State.setSc_st (n : Fin 17) : (s.setSc n).st = s.st := rfl
@[simp] theorem State.setSc_stack (n : Fin 17) : (s.setSc n).stack = s.stack := rfl
@[simp] theorem State.setSc_sc (n : Fin 17) : (s.setSc n).sc = n := rfl
@[simp] theorem State.setSc_mem (n : Fin 17) : (s.setSc n).mem = s.mem := rfl
@[simp] theorem State.setSc_fb (n : Fin 17) : (s.setSc n).fb = s.fb := rfl
@[simp] theorem State.setSc_ir (n : Fin 17) : (s.setSc n).ir = s.ir := rfl
@[simp] theorem State.setSc_fsm (n : Fin 17) : (s.setSc n).fsm = s.fsm := rfl
@[simp] theorem State.setSc_rnd (n : Fin 17) : (s.setSc n).rnd = s.rnd := rfl
@[simp] theorem State.setSc_popMode (n : Fin 17) : (s.setSc n).popMode = s.popMode := rfl

@[simp] theorem State.setMem_v (m : Memory) : (s.setMem m).v = s.v := rfl
@[simp] theorem State.setMem_i (m : Memory) : (s.setMem m).i = s.i := rfl
@[simp] theorem State.setMem_pc (m : Memory) : (s.setMem m).pc = s.pc := rfl
@[simp] theorem State.setMem_dt (m : Memory) : (s.setMem m).dt = s.dt := rfl
@[simp] theorem State.setMem_st (m : Memory) : (s.setMem m).st = s.st := rfl
@[simp] theorem State.setMem_stack (m : Memory) : (s.setMem m).stack = s.stack := rfl
@[simp] theorem State.setMem_sc (m : Memory) : (s.setMem m).sc = s.sc := rfl
@[simp] theorem State.setMem_mem (m : Memory) : (s.setMem m).mem = m := rfl
@[simp] theorem State.setMem_fb (m : Memory) : (s.setMem m).fb = s.fb := rfl
@[simp] theorem State.setMem_ir (m : Memory) : (s.setMem m).ir = s.ir := rfl
@[simp] theorem State.setMem_fsm (m : Memory) : (s.setMem m).fsm = s.fsm := rfl
@[simp] theorem State.setMem_rnd (m : Memory) : (s.setMem m).rnd = s.rnd := rfl
@[simp] theorem State.setMem_popMode (m : Memory) : (s.setMem m).popMode = s.popMode := rfl

@[simp] theorem State.setFb_v (f : Framebuffer) : (s.setFb f).v = s.v := rfl
@[simp] theorem State.setFb_i (f : Framebuffer) : (s.setFb f).i = s.i := rfl
@[simp] theorem State.setFb_pc (f : Framebuffer) : (s.setFb f).pc = s.pc := rfl
@[simp] theorem State.setFb_dt (f : Framebuffer) : (s.setFb f).dt = s.dt := rfl
@[simp] theorem State.setFb_st (f : Framebuffer) : (s.setFb f).st = s.st := rfl
@[simp] theorem State.setFb_stack (f : Framebuffer) : (s.setFb f).stack = s.stack := rfl
@[simp] theorem State.setFb_sc (f : Framebuffer) : (s.setFb f).sc = s.sc := rfl
@[simp] theorem State.setFb_mem (f : Framebuffer) : (s.setFb f).mem = s.mem := rfl
@[simp] theorem State.setFb_fb (f : Framebuffer) : (s.setFb f).fb = f := rfl
@[simp] theorem State.setFb_ir (f : Framebuffer) : (s.setFb f).ir = s.ir := rfl
@[simp] theorem State.setFb_fsm (f : Framebuffer) : (s.setFb f).fsm = s.fsm := rfl
@[simp] theorem State.setFb_rnd (f : Framebuffer) : (s.setFb f).rnd = s.rnd := rfl
@[simp] theorem State.setFb_popMode (f : Framebuffer) : (s.setFb f).popMode = s.popMode := rfl

@[simp] theorem State.setIr_v (w : Word) : (s.setIr w).v = s.v := rfl
@[simp] theorem State.setIr_i (w : Word) : (s.setIr w).i = s.i := rfl
@[simp] theorem State.setIr_pc (w : Word) : (s.setIr w).pc = s.pc := rfl
@[simp] theorem State.setIr_dt (w : Word) : (s.setIr w).dt = s.dt := rfl
@[simp] theorem State.setIr_st (w : Word) : (s.setIr w).st = s.st := rfl
@[simp] theorem State.setIr_stack (w : Word) : (s.setIr w).stack = s.stack := rfl
@[simp] theorem State.setIr_sc (w : Word) : (s.setIr w).sc = s.sc := rfl
@[simp] theorem State.setIr_mem (w : Word) : (s.setIr w).mem = s.mem := rfl
@[simp] theorem State.setIr_fb (w : Word) : (s.setIr w).fb = s.fb := rfl
@[simp] theorem State.setIr_ir (w : Word) : (s.setIr w).ir = w := rfl
@[simp] theorem State.setIr_fsm (w : Word) : (s.setIr w).fsm = s.fsm := rfl
@[simp] theorem State.setIr_rnd (w : Word) : (s.setIr w).rnd = s.rnd := rfl
@[simp] theorem State.setIr_popMode (w : Word) : (s.setIr w).popMode = s.popMode := rfl

@[simp] theorem State.setFsm_v (f : Fsm) : (s.setFsm f).v = s.v := rfl
@[simp] theorem State.setFsm_i (f : Fsm) : (s.setFsm f).i = s.i := rfl
@[simp] theorem State.setFsm_pc (f : Fsm) : (s.setFsm f).pc = s.pc := rfl
@[simp] theorem State.setFsm_dt (f : Fsm) : (s.setFsm f).dt = s.dt := rfl
@[simp] theorem State.setFsm_st (f : Fsm) : (s.setFsm f).st = s.st := rfl
@[simp] theorem State.setFsm_stack (f : Fsm) : (s.setFsm f).stack = s.stack := rfl
@[simp] theorem State.setFsm_sc (f : Fsm) : (s.setFsm f).sc = s.sc := rfl
@[simp] theorem State.setFsm_mem (f : Fsm) : (s.setFsm f).mem = s.mem := rfl
@[simp] theorem State.setFsm_fb (f : Fsm) : (s.setFsm f).fb = s.fb := rfl
@[simp] theorem State.setFsm_ir (f : Fsm) : (s.setFsm f).ir = s.ir := rfl
@[simp] theorem State.setFsm_fsm (f : Fsm) : (s.setFsm f).fsm = f := rfl
@[simp] theorem State.setFsm_rnd (f : Fsm) : (s.setFsm f).rnd = s.rnd := rfl
@[simp] theorem State.setFsm_popMode (f : Fsm) : (s.setFsm f).popMode = s.popMode := rfl

@[simp] theorem State.setRnd_v (r : RandomSource) : (s.setRnd r).v = s.v := rfl
@[simp] theorem State.setRnd_i (r : RandomSource) : (s.setRnd r).i = s.i := rfl
@[simp] theorem State.setRnd_pc (r : RandomSource) : (s.setRnd r).pc = s.pc := rfl
@[simp] theorem State.setRnd_dt (r : RandomSource) : (s.setRnd r).dt = s.dt := rfl
@[simp] theorem State.setRnd_st (r : RandomSource) : (s.setRnd r).st = s.st := rfl
@[simp] theorem State.setRnd_stack (r : RandomSource) : (s.setRnd r).stack = s.stack := rfl
@[simp] theorem State.setRnd_sc (r : RandomSource) : (s.setRnd r).sc = s.sc := rfl
@[simp] theorem State.setRnd_mem (r : RandomSource) : (s.setRnd r).mem = s.mem := rfl
@[simp] theorem State.setRnd_fb (r : RandomSource) : (s.setRnd r).fb = s.fb := rfl
@[simp] theorem State.setRnd_ir (r : RandomSource) : (s.setRnd r).ir = s.ir := rfl
@[simp] theorem State.setRnd_fsm (r : RandomSource) : (s.setRnd r).fsm = s.fsm := rfl
@[simp] theorem State.setRnd_rnd (r : RandomSource) : (s.setRnd r).rnd = r := rfl
@[simp] theorem State.setRnd_popMode (r : RandomSource) : (s.setRnd r).popMode = s.popMode := rfl

@[simp] theorem State.setPopMode_v (mode : Config.EmptyPopMode) : (s.setPopMode mode).v = s.v := rfl
@[simp] theorem State.setPopMode_i (mode : Config.EmptyPopMode) : (s.setPopMode mode).i = s.i := rfl
@[simp] theorem State.setPopMode_pc (mode : Config.EmptyPopMode) : (s.setPopMode mode).pc = s.pc := rfl
@[simp] theorem State.setPopMode_dt (mode : Config.EmptyPopMode) : (s.setPopMode mode).dt = s.dt := rfl
@[simp] theorem State.setPopMode_st (mode : Config.EmptyPopMode) : (s.setPopMode mode).st = s.st := rfl
@[simp] theorem State.setPopMode_stack (mode : Config.EmptyPopMode) : (s.setPopMode mode).stack = s.stack := rfl
@[simp] theorem State.setPopMode_sc (mode : Config.EmptyPopMode) : (s.setPopMode mode).sc = s.sc := rfl
@[simp] theorem State.setPopMode_mem (mode : Config.EmptyPopMode) : (s.setPopMode mode).mem = s.mem := rfl
@[simp] theorem State.setPopMode_fb (mode : Config.EmptyPopMode) : (s.setPopMode mode).fb = s.fb := rfl
@[simp] theorem State.setPopMode_ir (mode : Config.EmptyPopMode) : (s.setPopMode mode).ir = s.ir := rfl
@[simp] theorem State.setPopMode_fsm (mode : Config.EmptyPopMode) : (s.setPopMode mode).fsm = s.fsm := rfl
@[simp] theorem State.setPopMode_rnd (mode : Config.EmptyPopMode) : (s.setPopMode mode).rnd = s.rnd := rfl
@[simp] theorem State.setPopMode_popMode (mode : Config.EmptyPopMode) : (s.setPopMode mode).popMode = mode := rfl

/-! ## Accessors -/

/-- A register read after a register write. -/
theorem State.getV_setV (x y : RegIdx) (b : Byte) :
    (s.setV x b).getV y = if x = y then b else s.getV y := by
  simp [State.getV, State.setV, Vector.getElem_set, BitVec.toNat_inj]

@[simp] theorem State.getV_setV_same (x : RegIdx) (b : Byte) : (s.setV x b).getV x = b := by
  simp [State.getV_setV]

theorem State.getV_setV_ne {x y : RegIdx} (b : Byte) (h : x ≠ y) :
    (s.setV x b).getV y = s.getV y := by
  simp [State.getV_setV, h]

/-- A stack slot read after a slot write. -/
theorem State.slot_setSlot (j k : RegIdx) (w : Word) :
    (s.setSlot j w).slot k = if j = k then w else s.slot k := by
  simp [State.slot, State.setSlot, Vector.getElem_set, BitVec.toNat_inj]

@[simp] theorem State.slot_setSlot_same (k : RegIdx) (w : Word) : (s.setSlot k w).slot k = w := by
  simp [State.slot_setSlot]

@[simp] theorem State.getV_setI (w : Word) (reg : RegIdx) : (s.setI w).getV reg = s.getV reg := rfl
@[simp] theorem State.getV_setPc (w : Word) (reg : RegIdx) : (s.setPc w).getV reg = s.getV reg := rfl
@[simp] theorem State.getV_setDt (b : Byte) (reg : RegIdx) : (s.setDt b).getV reg = s.getV reg := rfl
@[simp] theorem State.getV_setSt (b : Byte) (reg : RegIdx) : (s.setSt b).getV reg = s.getV reg := rfl
@[simp] theorem State.getV_setSlot (k : RegIdx) (w : Word) (reg : RegIdx) : (s.setSlot k w).getV reg = s.getV reg := rfl
@[simp] theorem State.getV_setSc (n : Fin 17) (reg : RegIdx) : (s.setSc n).getV reg = s.getV reg := rfl
@[simp] theorem State.getV_setMem (m : Memory) (reg : RegIdx) : (s.setMem m).getV reg = s.getV reg := rfl
@[simp] theorem State.getV_setFb (f : Framebuffer) (reg : RegIdx) : (s.setFb f).getV reg = s.getV reg := rfl
@[simp] theorem State.getV_setIr (w : Word) (reg : RegIdx) : (s.setIr w).getV reg = s.getV reg := rfl
@[simp] theorem State.getV_setFsm (f : Fsm) (reg : RegIdx) : (s.setFsm f).getV reg = s.getV reg := rfl
@[simp] theorem State.getV_setRnd (r : RandomSource) (reg : RegIdx) : (s.setRnd r).getV reg = s.getV reg := rfl
@[simp] theorem State.getV_setPopMode (mode : Config.EmptyPopMode) (reg : RegIdx) :
    (s.setPopMode mode).getV reg = s.getV reg := rfl

@[simp] theorem State.slot_setV (x : RegIdx) (b : Byte) (j : RegIdx) : (s.setV x b).slot j = s.slot j := rfl
@[simp] theorem State.slot_setI (w : Word) (j : RegIdx) : (s.setI w).slot j = s.slot j := rfl
@[simp] theorem State.slot_setPc (w : Word) (j : RegIdx) : (s.setPc w).slot j = s.slot j := rfl
@[simp] theorem State.slot_setDt (b : Byte) (j : RegIdx) : (s.setDt b).slot j = s.slot j := rfl
@[simp] theorem State.slot_setSt (b : Byte) (j : RegIdx) : (s.setSt b).slot j = s.slot j := rfl
@[simp] theorem State.slot_setSc (n : Fin 17) (j : RegIdx) : (s.setSc n).slot j = s.slot j := rfl
@[simp] theorem State.slot_setMem (m : Memory) (j : RegIdx) : (s.setMem m).slot j = s.slot j := rfl
@[simp] theorem State.slot_setFb (f : Framebuffer) (j : RegIdx) : (s.setFb f).slot j = s.slot j := rfl
@[simp] theorem State.slot_setIr (w : Word) (j : RegIdx) : (s.setIr w).slot j = s.slot j := rfl
@[simp] theorem State.slot_setFsm (f : Fsm) (j : RegIdx) : (s.setFsm f).slot j = s.slot j := rfl
@[simp] theorem State.slot_setRnd (r : RandomSource) (j : RegIdx) : (s.setRnd r).slot j = s.slot j := rfl
@[simp] theorem State.slot_setPopMode (mode : Config.EmptyPopMode) (j : RegIdx) :
    (s.setPopMode mode).slot j = s.slot j := rfl

@[simp] theorem State.byteAt_setV (x : RegIdx) (b : Byte) (c : Nat) : (s.setV x b).byteAt c = s.byteAt c := rfl
@[simp] theorem State.byteAt_setI (w : Word) (c : Nat) : (s.setI w).byteAt c = s.byteAt c := rfl
@[simp] theorem State.byteAt_setPc (w : Word) (c : Nat) : (s.setPc w).byteAt c = s.byteAt c := rfl
@[simp] theorem State.byteAt_setDt (b : Byte) (c : Nat) : (s.setDt b).byteAt c = s.byteAt c := rfl
@[simp] theorem State.byteAt_setSt (b : Byte) (c : Nat) : (s.setSt b).byteAt c = s.byteAt c := rfl
@[simp] theorem State.byteAt_setSlot (k : RegIdx) (w : Word) (c : Nat) : (s.setSlot k w).byteAt c = s.byteAt c := rfl
@[simp] theorem State.byteAt_setSc (n : Fin 17) (c : Nat) : (s.setSc n).byteAt c = s.byteAt c := rfl
@[simp] theorem State.byteAt_setFb (f : Framebuffer) (c : Nat) : (s.setFb f).byteAt c = s.byteAt c := rfl
@[simp] theorem State.byteAt_setIr (w : Word) (c : Nat) : (s.setIr w).byteAt c = s.byteAt c := rfl
@[simp] theorem State.byteAt_setFsm (f : Fsm) (c : Nat) : (s.setFsm f).byteAt c = s.byteAt c := rfl
@[simp] theorem State.byteAt_setRnd (r : RandomSource) (c : Nat) : (s.setRnd r).byteAt c = s.byteAt c := rfl
@[simp] theorem State.byteAt_setPopMode (mode : Config.EmptyPopMode) (c : Nat) :
    (s.setPopMode mode).byteAt c = s.byteAt c := rfl

@[simp] theorem State.byteAt_setMem (m : Memory) (c : Nat) : (s.setMem m).byteAt c = memRead1 m c := rfl

end Sys2Proof.Machine
end

