-- ==== Sys2Proof/Laws/Memory.lean ====
section
/-! SUPPORT. Memory: reads after writes, the canonical form is kept, equal reads make equal memories. -/

namespace Sys2Proof.Machine

theorem wrapAddr_lt (a : Nat) : wrapAddr a < Config.memSize := Nat.mod_lt _ (by decide)

@[simp] theorem wrapAddr_wrapAddr (a : Nat) : wrapAddr (wrapAddr a) = wrapAddr a :=
  Nat.mod_mod _ _

theorem wrapAddr_of_lt {a : Nat} (h : a < Config.memSize) : wrapAddr a = a := Nat.mod_eq_of_lt h

/-- A key below every key of the list is not listed. -/
theorem Memory.read_eq_unlisted_of_lt {m : Memory} {a : Nat} (h : ∀ c ∈ m, a < c.1) :
    m.read a = Memory.unlisted := by
  induction m with
  | nil => rfl
  | cons c m ih =>
    have hc := h c (by simp)
    simp [Memory.read, Nat.ne_of_gt hc, ih fun d hd => h d (by simp [hd])]

/-- A read after a write, in a memory in canonical form. -/
theorem Memory.read_write {m : Memory} (hm : m.Pairwise (fun c d => c.1 < d.1)) (a c : Nat) (b : Byte) :
    (m.write a b).read c = if c = a then b else m.read c := by
  induction m with
  | nil =>
    by_cases hb : b = Memory.unlisted
    · simp [Memory.write, Memory.read, hb]
    · simp [Memory.write, Memory.read, hb, eq_comm]
  | cons e m ih =>
    obtain ⟨k, x⟩ := e
    obtain ⟨hk, hm'⟩ := List.pairwise_cons.mp hm
    have below : ∀ {n : Nat}, n ≤ k → Memory.read m n = Memory.unlisted := fun hn =>
      Memory.read_eq_unlisted_of_lt fun d hd => Nat.lt_of_le_of_lt hn (hk d hd)
    rcases Nat.lt_trichotomy a k with hlt | rfl | hgt
    · by_cases hb : b = Memory.unlisted
      · simp only [Memory.write, hlt, hb, if_true]
        split
        · next h => subst h; simp [Memory.read, Nat.ne_of_gt hlt, below (Nat.le_of_lt hlt)]
        · rfl
      · simp only [Memory.write, hlt, hb, if_true, if_false, Memory.read, eq_comm (a := a)]
    · by_cases hb : b = Memory.unlisted
      · simp only [Memory.write, Nat.lt_irrefl, hb, if_true, if_false]
        split
        · next h => subst h; exact below (Nat.le_refl _)
        · next h => simp [Memory.read, Ne.symm h]
      · simp only [Memory.write, Nat.lt_irrefl, hb, if_true, if_false, Memory.read, eq_comm (a := a)]
        split <;> rfl
    · simp only [Memory.write, Nat.not_lt_of_gt hgt, Nat.ne_of_gt hgt, if_false, Memory.read, ih hm']
      by_cases hc : k = c
      · subst hc; simp [Nat.ne_of_lt hgt]
      · simp [hc]

/-- The keys of a memory after a write are the written key and keys it had. -/
theorem Memory.mem_write {m : Memory} {a : Nat} {b : Byte} {c : Host.Cell} (h : c ∈ m.write a b) :
    c ∈ m ∨ (c = (a, b) ∧ b ≠ Memory.unlisted) := by
  induction m with
  | nil =>
    by_cases hb : b = Memory.unlisted
    · simp [Memory.write, hb] at h
    · exact .inr ⟨by simpa [Memory.write, hb] using h, hb⟩
  | cons e m ih =>
    obtain ⟨k, x⟩ := e
    simp only [Memory.write] at h
    split at h
    · split at h
      · exact .inl h
      · next hb =>
        rcases List.mem_cons.mp h with rfl | h
        · exact .inr ⟨rfl, hb⟩
        · exact .inl h
    · split at h
      · split at h
        · exact .inl (List.mem_cons_of_mem _ h)
        · next hb =>
          rcases List.mem_cons.mp h with rfl | h
          · exact .inr ⟨rfl, hb⟩
          · exact .inl (List.mem_cons_of_mem _ h)
      · rcases List.mem_cons.mp h with rfl | h
        · exact .inl (by simp)
        · exact (ih h).imp (List.mem_cons_of_mem _) id

/-- A write keeps the keys strictly rising. -/
theorem Memory.pairwise_write {m : Memory} (hm : m.Pairwise (fun c d => c.1 < d.1)) (a : Nat) (b : Byte) :
    (m.write a b).Pairwise (fun c d => c.1 < d.1) := by
  induction m with
  | nil => by_cases hb : b = Memory.unlisted <;> simp [Memory.write, hb]
  | cons e m ih =>
    obtain ⟨k, x⟩ := e
    obtain ⟨hk, hm'⟩ := List.pairwise_cons.mp hm
    simp only [Memory.write]
    split
    · next hlt =>
      split
      · exact hm
      · refine List.pairwise_cons.mpr ⟨fun d hd => ?_, hm⟩
        rcases List.mem_cons.mp hd with rfl | hd
        · exact hlt
        · exact Nat.lt_trans hlt (hk d hd)
    · next hge =>
      split
      · next heq =>
        subst heq
        split
        · exact hm'
        · exact List.pairwise_cons.mpr ⟨hk, hm'⟩
      · next hne =>
        refine List.pairwise_cons.mpr ⟨fun d hd => ?_, ih hm'⟩
        rcases Memory.mem_write hd with h | ⟨rfl, -⟩
        · exact hk d h
        · exact Nat.lt_of_le_of_ne (Nat.le_of_not_lt hge) (Ne.symm hne)

/-- A write at a key inside the memory keeps the canonical form. -/
theorem Memory.wf_write {m : Memory} (hm : m.wf) {a : Nat} (ha : a < Config.memSize) (b : Byte) :
    (m.write a b).wf := by
  refine ⟨Memory.pairwise_write hm.1 a b, fun c hc => ?_⟩
  rcases Memory.mem_write hc with h | ⟨rfl, hb⟩
  · exact hm.2 c h
  · exact ⟨ha, hb⟩

/-- MemWrite of one byte keeps the canonical form. -/
theorem memWrite1_wf {m : Memory} (hm : m.wf) (a : Nat) (b : Byte) : (memWrite1 m a b).wf :=
  Memory.wf_write hm (wrapAddr_lt a) b

/-- MemWrite of two bytes keeps the canonical form. -/
theorem memWrite2_wf {m : Memory} (hm : m.wf) (a : Nat) (w : Word) : (memWrite2 m a w).wf :=
  memWrite1_wf (memWrite1_wf hm _ _) _ _

/-- The bytes of a LOAD keep the canonical form. -/
theorem storeBytes_wf {m : Memory} (hm : m.wf) (a : Nat) (data : List Byte) :
    (storeBytes m a data).wf := by
  induction data generalizing m a with
  | nil => exact hm
  | cons b bs ih => exact ih (memWrite1_wf hm a b) (a + 1)

/-- Reset memory is in canonical form. -/
theorem reset_mem_wf : State.reset.mem.wf := by decide

/-- The canonical form determines the list from the bytes it reads as. -/
theorem Memory.eq_of_read_eq {m m' : Memory} (hm : m.wf) (hm' : m'.wf)
    (h : ∀ a, m.read a = m'.read a) : m = m' := by
  induction m generalizing m' with
  | nil =>
    cases m' with
    | nil => rfl
    | cons e m' => exact absurd (by simpa [Memory.read] using (h e.1).symm) (hm'.2 e (by simp)).2
  | cons e m ih =>
    obtain ⟨k, x⟩ := e
    obtain ⟨hk, hp⟩ := List.pairwise_cons.mp hm.1
    cases m' with
    | nil => exact absurd (by simpa [Memory.read] using h k) (hm.2 (k, x) (by simp)).2
    | cons e' m' =>
      obtain ⟨k', x'⟩ := e'
      obtain ⟨hk', hp'⟩ := List.pairwise_cons.mp hm'.1
      have hx := (hm.2 (k, x) (by simp)).2
      have hx' := (hm'.2 (k', x') (by simp)).2
      have keys : k = k' := by
        rcases Nat.lt_trichotomy k k' with hlt | heq | hgt
        · have : Memory.read ((k', x') :: m') k = Memory.unlisted :=
            Memory.read_eq_unlisted_of_lt fun c hc => by
              rcases List.mem_cons.mp hc with rfl | hc
              · exact hlt
              · exact Nat.lt_trans hlt (hk' c hc)
          exact absurd (by rw [← this, ← h k]; simp [Memory.read]) hx
        · exact heq
        · have : Memory.read ((k, x) :: m) k' = Memory.unlisted :=
            Memory.read_eq_unlisted_of_lt fun c hc => by
              rcases List.mem_cons.mp hc with rfl | hc
              · exact hgt
              · exact Nat.lt_trans hgt (hk c hc)
          exact absurd (by rw [← this, h k']; simp [Memory.read]) hx'
      subst keys
      have vals : x = x' := by simpa [Memory.read] using h k
      subst vals
      refine congrArg _ (ih ⟨hp, fun c hc => hm.2 c (by simp [hc])⟩
        ⟨hp', fun c hc => hm'.2 c (by simp [hc])⟩ fun a => ?_)
      by_cases ha : k = a
      · subst ha
        rw [Memory.read_eq_unlisted_of_lt hk, Memory.read_eq_unlisted_of_lt hk']
      · simpa [Memory.read, ha] using h a

/-- MemRead after MemWrite of one byte, both mod 4096. -/
theorem memRead1_memWrite1 {m : Memory} (hm : m.wf) (a c : Nat) (b : Byte) :
    memRead1 (memWrite1 m a b) c = if wrapAddr c = wrapAddr a then b else memRead1 m c := by
  simp [memRead1, memWrite1, Memory.read_write hm.1]

/-- MemRead of a word after MemWrite of that word. -/
theorem memRead2_memWrite2 {m : Memory} (hm : m.wf) (a : Nat) (w : Word) :
    memRead2 (memWrite2 m a w) a = w := by
  have hne : wrapAddr a ≠ wrapAddr (a + 1) := by
    simp only [wrapAddr, Config.memSize]; omega
  simp [memRead2, memWrite2, memRead1_memWrite1 (memWrite1_wf hm _ _), memRead1_memWrite1 hm, hne]

/-- A byte after a LOAD's bytes have been stored: the datum at its place, or what was there. -/
theorem memRead1_storeBytes {m : Memory} (hm : m.wf) (a c : Nat) (data : List Byte)
    (hfit : a + data.length ≤ Config.memSize) (hc : c < Config.memSize) :
    memRead1 (storeBytes m a data) c =
      if a ≤ c then (data[c - a]?).getD (memRead1 m c) else memRead1 m c := by
  induction data generalizing m a with
  | nil => simp [storeBytes]
  | cons b bs ih =>
    simp only [List.length_cons] at hfit
    rw [storeBytes, ih (memWrite1_wf hm a b) (a + 1) (by omega), memRead1_memWrite1 hm,
      wrapAddr_of_lt hc, wrapAddr_of_lt (show a < Config.memSize by omega)]
    rcases Nat.lt_trichotomy c a with h | rfl | h
    · simp [show ¬a + 1 ≤ c by omega, show ¬a ≤ c by omega, Nat.ne_of_lt h]
    · simp [show ¬c + 1 ≤ c by omega]
    · simp [show a + 1 ≤ c by omega, show a ≤ c by omega, Nat.ne_of_gt h,
        show c - a = (c - (a + 1)) + 1 by omega]

end Sys2Proof.Machine
end

