-- ==== Sys2Proof/Laws/Ops.lean ====
section
/-! SUPPORT. One lemma for each shared operation over the state: everything it can do. -/

namespace Sys2Proof.Machine

variable (s : State)

/-! ## The program counter -/

/-- A sequential advance writes PC and nothing else. -/
theorem State.advance_eq : s.advance = s.setPc (s.pc + 2#16) := rfl

/-- A skip writes PC and nothing else. -/
theorem State.skipIf_eq (c : Bool) :
    s.skipIf c = s.setPc (s.pc + if c then 4#16 else 2#16) := by
  cases c <;> rfl

@[simp] theorem State.advance_pc : s.advance.pc = s.pc + 2#16 := rfl
@[simp] theorem State.skipIf_pc (c : Bool) : (s.skipIf c).pc = s.pc + if c then 4#16 else 2#16 := by
  rw [State.skipIf_eq]; rfl

/-! ## The call stack -/

/-- Push with room: slot SC takes the address and SC rises. -/
theorem State.push_of_lt {a : Word} (h : s.sc.val < 16) :
    s.push a = (s.setSlot (BitVec.ofNat 4 s.sc.val) a).setSc ⟨s.sc.val + 1, by omega⟩ :=
  dif_pos h

/-- Push on a full stack: slot 15 is overwritten and SC stays. -/
theorem State.push_of_full {a : Word} (h : s.sc.val = 16) : s.push a = s.setSlot 0xF#4 a :=
  dif_neg (by simp [h])

/-- Pop of a stack that holds something: the top slot's value, and SC falls. -/
theorem State.popWith_of_pos {mode : Config.EmptyPopMode} (h : 0 < s.sc.val) :
    s.popWith mode = (s.slot (BitVec.ofNat 4 (s.sc.val - 1)), s.setSc ⟨s.sc.val - 1, by omega⟩) :=
  if_pos h

/-- Pop of an empty stack: the mode's value, and nothing changes. -/
theorem State.popWith_of_empty {mode : Config.EmptyPopMode} (h : s.sc.val = 0) :
    s.popWith mode = (s.emptyPop mode, s) :=
  if_neg (by omega)

/-- The slot a push writes. -/
def pushSlot (n : Fin 17) : RegIdx := BitVec.ofNat 4 (min n.val 15)

/-- SC after a push. -/
def pushCount (n : Fin 17) : Fin 17 := ⟨min (n.val + 1) 16, by omega⟩

/-- SC after a pop. -/
def popCount (n : Fin 17) : Fin 17 := ⟨n.val - 1, by omega⟩

/-- Push, in one form for every SC. -/
theorem State.push_eq (a : Word) : s.push a = (s.setSlot (pushSlot s.sc) a).setSc (pushCount s.sc) := by
  rcases Nat.lt_or_ge s.sc.val 16 with h | h
  · rw [State.push_of_lt s h, pushSlot, pushCount, Nat.min_eq_left (show s.sc.val ≤ 15 by omega)]
    congr 1
    exact Fin.ext (by simp; omega)
  · have h16 : s.sc.val = 16 := by omega
    have hc : pushCount s.sc = s.sc := Fin.ext (by simp [pushCount, h16])
    rw [State.push_of_full s h16, hc, pushSlot, h16]
    rfl

/-- The state after a pop, in one form for every SC and mode. -/
theorem State.popWith_snd_eq (mode : Config.EmptyPopMode) :
    (s.popWith mode).2 = s.setSc (popCount s.sc) := by
  rcases Nat.eq_zero_or_pos s.sc.val with h | h
  · have hc : popCount s.sc = s.sc := Fin.ext (by simp [popCount, h])
    rw [State.popWith_of_empty s h, hc]
    rfl
  · rw [State.popWith_of_pos s h]
    rfl

/-- What a pop returns, by the mode, the slots and SC. -/
def popValue (mode : Config.EmptyPopMode) (slots : Vector Word 16) (n : Fin 17) : Word :=
  if h : 0 < n.val then slots[n.val - 1]'(by omega)
  else if mode = .zero then 0x0000#16 else slots[0]

/-- The value a pop returns depends on the slots and SC alone. -/
theorem State.popWith_fst_eq (mode : Config.EmptyPopMode) :
    (s.popWith mode).1 = popValue mode s.stack s.sc := by
  rcases Nat.eq_zero_or_pos s.sc.val with h | h
  · rw [State.popWith_of_empty s h, popValue, dif_neg (by omega)]
    cases mode <;> rfl
  · have hlt : s.sc.val - 1 < 16 := by omega
    rw [State.popWith_of_pos s h, popValue, dif_pos h]
    simp [State.slot, Nat.mod_eq_of_lt hlt]

/-- Pop changes SC and nothing else. -/
theorem State.popWith_snd (mode : Config.EmptyPopMode) :
    ∃ n : Fin 17, (s.popWith mode).2 = s.setSc n := by
  rcases Nat.eq_zero_or_pos s.sc.val with h | h
  · exact ⟨s.sc, by rw [s.popWith_of_empty h]; rfl⟩
  · exact ⟨_, by rw [s.popWith_of_pos h]⟩

/-- Push changes a slot and SC and nothing else. -/
theorem State.push_cases (a : Word) :
    ∃ (k : RegIdx) (n : Fin 17), s.push a = (s.setSlot k a).setSc n := by
  rcases Nat.lt_or_ge s.sc.val 16 with h | h
  · exact ⟨_, _, s.push_of_lt h⟩
  · exact ⟨0xF#4, s.sc, by rw [s.push_of_full (by omega)]; rfl⟩

/-! ## The random source -/

/-- An announced answer is the next byte. -/
@[simp] theorem State.rndByte_offerRandom (b : Byte) : (s.offerRandom b).rndByte = b := rfl

/-- A request takes the announced answer and counts. -/
theorem State.rndRequested_offerRandom (b : Byte) :
    (s.offerRandom b).rndRequested = s.setRnd ⟨s.rnd.answers, s.rnd.served + 1⟩ := rfl

/-- One request counts once. -/
@[simp] theorem State.rndRequested_served : s.rndRequested.rnd.served = s.rnd.served + 1 := rfl

/-! ## Reset -/

/-- RESET gives the reset state but for the host's random source and the machine's parameter. -/
theorem State.resetCore_eq :
    s.resetCore = { State.reset with rnd := s.rnd, popMode := s.popMode } := rfl

/-! ## Fetch -/

/-- The fetched word is the byte at PC and the byte after it, mod 4096. -/
theorem State.fetch_eq :
    s.fetch = wordOfBytes (s.byteAt s.pc.toNat) (s.byteAt (s.pc.toNat + 1)) := rfl

end Sys2Proof.Machine
end

