-- ==== Sys2Proof/Laws/Clock.lean ====
section
/-! SUPPORT. The clocked machine, one edge of each state of the dispatch state machine, so that later
proofs need not unfold it. -/

namespace Sys2Proof.Machine

variable {s : State} {p : PinsIn}

/-- An argument zero-extended onto a 16-bit port reads back. -/
theorem port_readback {w : Nat} (hw : w ≤ 16) (x : BitVec w) :
    (x.setWidth 16).extractLsb' 0 w = x := by
  have hx : x.toNat < 2 ^ 16 := Nat.lt_of_lt_of_le x.isLt (Nat.pow_le_pow_right (by decide) hw)
  refine BitVec.eq_of_toNat_eq ?_
  rw [BitVec.extractLsb'_toNat, BitVec.toNat_setWidth, Nat.mod_eq_of_lt hx, Nat.shiftRight_zero,
    Nat.mod_eq_of_lt x.isLt]

/-- A run of edges, cut in two. -/
theorem State.ticks_append (ps qs : List PinsIn) (s : State) :
    State.ticks (ps ++ qs) s =
      ((State.ticks ps s).1 ++ (State.ticks qs (State.ticks ps s).2).1,
        (State.ticks qs (State.ticks ps s).2).2) := by
  induction ps generalizing s with
  | nil => rfl
  | cons p ps ih => simp [State.ticks, ih]

/-- rst takes the reset state. -/
theorem State.tick_of_rst (h : p.rst = true) : s.tick p = s.resetCore := by simp [State.tick, h]

/-- Otherwise the state machine takes one edge. -/
theorem State.tick_of_run (h : p.rst = false) : s.tick p = s.clockEdge p := by simp [State.tick, h]

/-! ## One edge of each state -/

theorem clockEdge_idle (h : s.fsm = .idle) :
    s.clockEdge p = if p.reqValid then s.setFsm (acceptedFsm p) else s := by
  simp only [State.clockEdge, h]

theorem clockEdge_fetchHi (h : s.fsm = .fetchHi) :
    s.clockEdge p = (s.setIr (wordOfBytes (s.byteAt s.pc.toNat) (loByte s.ir))).setFsm .fetchLo := by
  simp only [State.clockEdge, h]

theorem clockEdge_fetchLo (h : s.fsm = .fetchLo) :
    s.clockEdge p = (s.setIr (wordOfBytes (hiByte s.ir) (s.byteAt (s.pc.toNat + 1)))).setFsm .decode := by
  simp only [State.clockEdge, h]

theorem clockEdge_decode (h : s.fsm = .decode) :
    s.clockEdge p = s.setFsm (if (decodeWord s.ir).isSome then .execute else .fault) := by
  simp only [State.clockEdge, h]

theorem clockEdge_execute (h : s.fsm = .execute) : s.clockEdge p = s.clockExecute p := by
  simp only [State.clockEdge, h]

theorem clockEdge_clear {row : Fin 32} (h : s.fsm = .clear row) :
    s.clockEdge p = (s.setFb (s.fb.setRow row.val 0#64)).setFsm
      (if h : row.val + 1 < 32 then .clear ⟨row.val + 1, h⟩ else .commit none) := by
  simp only [State.clockEdge, h]

theorem clockEdge_commit {byte : Option Byte} (h : s.fsm = .commit byte) :
    s.clockEdge p = s.clockCommit byte := by
  simp only [State.clockEdge, h]

theorem clockEdge_readOut {r : ReadTarget} (h : s.fsm = .readOut r) : s.clockEdge p = s.setFsm .idle := by
  simp only [State.clockEdge, h]

theorem clockEdge_timerWr {r : Timer} {v : Byte} (h : s.fsm = .timerWr r v) :
    s.clockEdge p = (s.writeTimer r v).setFsm .idle := by
  simp only [State.clockEdge, h]

theorem clockEdge_badReq (h : s.fsm = .badReq) : s.clockEdge p = s.setFsm .idle := by
  simp only [State.clockEdge, h]

theorem clockEdge_fault (h : s.fsm = .fault) : s.clockEdge p = s.setFsm .idle := by
  simp only [State.clockEdge, h]

theorem clockEdge_loadCheck {start : Addr} {len : BitVec 13} (h : s.fsm = .loadCheck start len) :
    s.clockEdge p = s.setFsm (if loadFits start len.toNat then .loadWrite start len 0 else .idle) := by
  simp only [State.clockEdge, h]

theorem clockEdge_loadWrite {start : Addr} {len : BitVec 13} {sent : Nat}
    (h : s.fsm = .loadWrite start len sent) :
    s.clockEdge p = s.clockLoadWrite start len sent p := by
  simp only [State.clockEdge, h]

theorem clockEdge_drawRow {x y : Byte} {n : BitVec 4} {sent : Nat} {erased : Bool}
    (h : s.fsm = .drawRow x y n sent erased) :
    s.clockEdge p = s.clockDrawRow x y n sent erased p := by
  simp only [State.clockEdge, h]

/-- The fetch: from FETCH_HI to DECODE in two edges, the fetched word in IR. -/
theorem clockEdge_fetch {q : PinsIn} (h : s.fsm = .fetchHi) :
    (s.clockEdge p).clockEdge q = (s.setIr s.fetch).setFsm .decode := by
  rw [clockEdge_fetchHi h, clockEdge_fetchLo rfl]
  simp [State.fetch_eq]
  rfl

end Sys2Proof.Machine
end

