-- ==== Sys2Proof/Laws/Exec.lean ====
section
/-! SUPPORT. Each instruction's effect, as named updates of the state before it: what every later proof
about `exec` rewrites with. -/

namespace Sys2Proof.Machine

variable (s : State)

/-! ## Control transfer -/

theorem exec_ret : exec .ret s =
    .next ((s.setSc (popCount s.sc)).setPc (popValue s.popMode s.stack s.sc)) := by
  rw [← State.popWith_snd_eq s s.popMode, ← State.popWith_fst_eq]; rfl

theorem exec_jp (nnn : Addr) : exec (.jp nnn) s = .next (s.setPc (zext16 nnn)) := rfl

theorem exec_call (nnn : Addr) : exec (.call nnn) s =
    .next (((s.setSlot (pushSlot s.sc) (s.pc + 2#16)).setSc (pushCount s.sc)).setPc (zext16 nnn)) := by
  rw [← State.push_eq]; rfl

theorem exec_seByte (x : RegIdx) (kk : Byte) : exec (.seByte x kk) s =
    .next (s.setPc (s.pc + if s.getV x == kk then 4#16 else 2#16)) := by
  rw [← State.skipIf_eq]; rfl

theorem exec_sneByte (x : RegIdx) (kk : Byte) : exec (.sneByte x kk) s =
    .next (s.setPc (s.pc + if s.getV x != kk then 4#16 else 2#16)) := by
  rw [← State.skipIf_eq]; rfl

theorem exec_seReg (x y : RegIdx) : exec (.seReg x y) s =
    .next (s.setPc (s.pc + if s.getV x == s.getV y then 4#16 else 2#16)) := by
  rw [← State.skipIf_eq]; rfl

theorem exec_sneReg (x y : RegIdx) : exec (.sneReg x y) s =
    .next (s.setPc (s.pc + if s.getV x != s.getV y then 4#16 else 2#16)) := by
  rw [← State.skipIf_eq]; rfl

theorem exec_jpV0 (nnn : Addr) : exec (.jpV0 nnn) s = .next (s.setPc (operandIndexed s nnn)) := rfl

/-! ## Sequential instructions -/

theorem exec_cls : exec .cls s = .next ((s.setFb fbClear).setPc (s.pc + 2#16)) := rfl

theorem exec_ldByte (x : RegIdx) (kk : Byte) : exec (.ldByte x kk) s =
    .next ((s.setV x kk).setPc (s.pc + 2#16)) := rfl

theorem exec_addByte (x : RegIdx) (kk : Byte) : exec (.addByte x kk) s =
    .next ((s.setV x (addByte (s.getV x) kk)).setPc (s.pc + 2#16)) := rfl

theorem exec_ldReg (x y : RegIdx) : exec (.ldReg x y) s =
    .next ((s.setV x (s.getV y)).setPc (s.pc + 2#16)) := rfl

theorem exec_orReg (x y : RegIdx) : exec (.orReg x y) s =
    .next ((s.setV x (s.getV x ||| s.getV y)).setPc (s.pc + 2#16)) := rfl

theorem exec_andReg (x y : RegIdx) : exec (.andReg x y) s =
    .next ((s.setV x (s.getV x &&& s.getV y)).setPc (s.pc + 2#16)) := rfl

theorem exec_xorReg (x y : RegIdx) : exec (.xorReg x y) s =
    .next ((s.setV x (s.getV x ^^^ s.getV y)).setPc (s.pc + 2#16)) := rfl

theorem exec_addReg (x y : RegIdx) : exec (.addReg x y) s =
    .next (((s.setV x (addByte (s.getV x) (s.getV y))).setV regVF
      (carryFlag (s.getV x) (s.getV y))).setPc (s.pc + 2#16)) := rfl

theorem exec_subReg (x y : RegIdx) : exec (.subReg x y) s =
    .next (((s.setV regVF (noBorrowFlag (s.getV x) (s.getV y))).setV x
      (subByte (s.getV x) (s.getV y))).setPc (s.pc + 2#16)) := rfl

theorem exec_shr (x y : RegIdx) : exec (.shr x y) s =
    .next (((s.setV regVF (shrFlag (s.getV x))).setV x (shrByte (s.getV x))).setPc
      (s.pc + 2#16)) := rfl

theorem exec_subnReg (x y : RegIdx) : exec (.subnReg x y) s =
    .next (((s.setV regVF (noBorrowFlag (s.getV y) (s.getV x))).setV x
      (subByte (s.getV y) (s.getV x))).setPc (s.pc + 2#16)) := rfl

theorem exec_shl (x y : RegIdx) : exec (.shl x y) s =
    .next (((s.setV regVF (shlFlag (s.getV x))).setV x (shlByte (s.getV x))).setPc
      (s.pc + 2#16)) := rfl

theorem exec_ldI (nnn : Addr) : exec (.ldI nnn) s =
    .next ((s.setI (zext16 nnn)).setPc (s.pc + 2#16)) := rfl

theorem exec_rnd (x : RegIdx) (kk : Byte) : exec (.rnd x kk) s =
    .next ((s.rndRequested.setV x (s.rndByte &&& kk)).setPc (s.pc + 2#16)) := rfl

/-! ## Results and targets as numbers -/

theorem pc_add_two_toNat : (s.pc + 2#16).toNat = (s.pc.toNat + 2) % 2 ^ 16 := by
  simp [BitVec.toNat_add]

theorem pc_add_four_toNat : (s.pc + 4#16).toNat = (s.pc.toNat + 4) % 2 ^ 16 := by
  simp [BitVec.toNat_add]

@[simp] theorem zext16_toNat (nnn : Addr) : (zext16 nnn).toNat = nnn.toNat := by
  simp [zext16]; omega

theorem operandIndexed_toNat (nnn : Addr) :
    (operandIndexed s nnn).toNat = (nnn.toNat + (s.getV 0x0#4).toNat) % Config.memSize := by
  simp [operandIndexed, Config.memSize]; omega

theorem fetchAddr_toNat : s.fetchAddr.toNat = s.pc.toNat % Config.memSize := by
  simp [State.fetchAddr, wrapAddr, Config.memSize]; omega

theorem addByte_toNat (a b : Byte) : (addByte a b).toNat = (a.toNat + b.toNat) % 256 := by
  simp [addByte]

theorem subByte_toNat (a b : Byte) : ((subByte a b).toNat : Int) = (a.toNat - b.toNat : Int) % 256 := by
  simp [subByte, BitVec.toNat_ofInt]; omega

theorem shrByte_toNat (a : Byte) : (shrByte a).toNat = a.toNat / 2 := by
  simp [shrByte, Nat.shiftRight_eq_div_pow]

theorem shlByte_toNat (a : Byte) : (shlByte a).toNat = 2 * a.toNat % 256 := by
  simp [shlByte, Nat.shiftLeft_eq]; omega

theorem and_one_toNat (a : Byte) : (a &&& 0x01#8).toNat = a.toNat % 2 := by
  simp [Nat.and_one_is_mod]

end Sys2Proof.Machine
end

