-- ==== Sys2Proof/Laws/Step.lean ====
section
/-! SUPPORT. What a step and a transaction can do, case by case, so that later proofs need not unfold
them. -/

namespace Sys2Proof.Machine

variable {s : State}

/-- A step from IDLE whose word decodes runs the instruction. -/
theorem step_of_decode (hs : s.fsm = .idle) {i : Instr} (hi : decodeWord s.fetch = some i) :
    step s = exec i (s.setIr s.fetch) := by
  simp only [step, State.accepts, hs, decide_true, if_true, hi]

/-- A step from IDLE on an unknown opcode reports it. -/
theorem step_of_unknown (hs : s.fsm = .idle) (hi : decodeWord s.fetch = none) :
    step s = .fault (.unknownOpcode s.fetch s.fetchAddr) := by
  simp only [step, State.accepts, hs, decide_true, if_true, hi, raiseUnknownOpcode]

/-- A step in any other state is refused. -/
theorem step_of_busy (hs : s.fsm ≠ .idle) : step s = .refused .busy := by
  simp [step, State.accepts, hs]

/-- A step that gives a next state ran a decoded instruction from IDLE. -/
theorem step_next {t : State} (h : step s = .next t) :
    s.fsm = .idle ∧ ∃ i, decodeWord s.fetch = some i ∧ exec i (s.setIr s.fetch) = .next t := by
  by_cases hs : s.fsm = .idle
  · refine ⟨hs, ?_⟩
    cases hi : decodeWord s.fetch with
    | some i => exact ⟨i, rfl, by rw [← step_of_decode hs hi, h]⟩
    | none => rw [step_of_unknown hs hi] at h; cases h
  · rw [step_of_busy hs] at h; cases h

/-- RESET is taken in any state. -/
theorem transact_reset : s.transact .reset = (.noResponse, s.resetCore) := rfl

/-- No other request is seen while the core is busy. -/
theorem transact_of_busy (hs : s.fsm ≠ .idle) {r : Request} (hr : r ≠ .reset) :
    s.transact r = (.notSeen, s) := by
  simp [State.transact, State.accepts, hs, hr]

/-- In IDLE a well-formed request is served. -/
theorem transact_of_idle (hs : s.fsm = .idle) {r : Request} (hr : r.wellFormed = true) :
    s.transact r = s.serve r := by
  simp only [State.transact, State.accepts, hs, decide_true, hr, if_true]
  split <;> rfl

/-- In IDLE a request that is not well formed is answered BAD_REQUEST. -/
theorem transact_of_illFormed (hs : s.fsm = .idle) {r : Request} (hr : r.wellFormed = false) :
    s.transact r = (.badRequest, s) := by
  have hne : r ≠ .reset := by rintro rfl; simp [Request.wellFormed] at hr
  simp [State.transact, State.accepts, hs, hr, hne]

/-- The transaction STEP, from IDLE, on a word that decodes. -/
theorem transact_step_of_next (hs : s.fsm = .idle) {t : State} (h : step s = .next t) :
    s.transact .step = (.ok, t) := by
  rw [transact_of_idle hs rfl]; simp only [State.serve, State.stepTransaction, h]

/-- The transaction STEP, from IDLE, on an unknown opcode. -/
theorem transact_step_of_unknown (hs : s.fsm = .idle) (hi : decodeWord s.fetch = none) :
    s.transact .step = (.unknownOpcode s.fetch s.fetchAddr, s.setIr s.fetch) := by
  rw [transact_of_idle hs rfl]; simp only [State.serve, State.stepTransaction, step_of_unknown hs hi]

end Sys2Proof.Machine
end

