-- ==== Sys2Proof/Laws/Transactions.lean ====
section
/-! SUPPORT. Everything a transaction can do to the state, once. -/

namespace Sys2Proof.Machine

/-- Every instruction gives a next state. -/
theorem exec_isNext (i : Instr) (s : State) : ∃ t, exec i s = .next t := by
  cases i <;> exact ⟨_, rfl⟩

/-- The state after a transaction: as before (a READ, a refused or unseen request, a LOAD that does not
fit), or after a RESET, a LOAD, a STEP that ran an instruction or failed, a WRITE_TIMER or a DRAW. -/
theorem transact_cases (r : Request) (s : State) :
    (s.transact r).2 = s ∨
    (r = .reset ∧ (s.transact r).2 = s.resetCore) ∨
    (s.fsm = .idle ∧
      ((∃ start data, r = .load start data ∧ loadFits (loadStart start) data.length = true ∧
          (s.transact r).2 = s.load (loadStart start) data) ∨
        (∃ i, r = .step ∧ decodeWord s.fetch = some i ∧
          exec i (s.setIr s.fetch) = .next (s.transact r).2) ∨
        (r = .step ∧ decodeWord s.fetch = none ∧ (s.transact r).2 = s.setIr s.fetch) ∨
        (∃ t v, r = .writeTimer t v ∧ (s.transact r).2 = s.writeTimer t v) ∨
        (∃ x y rows, r = .draw x y rows ∧
          (s.transact r).2 = s.setFb (fbDraw s.fb x.toNat y.toNat rows).1))) := by
  by_cases hr : r = .reset
  · exact .inr (.inl ⟨hr, by rw [hr, transact_reset]⟩)
  by_cases hs : s.fsm = .idle
  swap
  · exact .inl (by rw [transact_of_busy hs hr])
  cases hw : r.wellFormed
  · exact .inl (by rw [transact_of_illFormed hs hw])
  rw [transact_of_idle hs hw]
  cases r with
  | reset => exact absurd rfl hr
  | load start data =>
    cases h : loadFits (loadStart start) data.length
    · exact .inl (by simp [State.serve, h])
    · exact .inr (.inr ⟨hs, .inl ⟨start, data, rfl, h, by simp [State.serve, h]⟩⟩)
  | step =>
    refine .inr (.inr ⟨hs, .inr ?_⟩)
    cases hi : decodeWord s.fetch with
    | none =>
      refine .inr (.inl ⟨rfl, rfl, ?_⟩)
      simp only [State.serve, State.stepTransaction, step_of_unknown hs hi]
    | some i =>
      obtain ⟨t, ht⟩ := exec_isNext i (s.setIr s.fetch)
      refine .inl ⟨i, rfl, rfl, ?_⟩
      simp only [State.serve, State.stepTransaction, step_of_decode hs hi, ht]
  | read t => exact .inl rfl
  | writeTimer t v => exact .inr (.inr ⟨hs, .inr (.inr (.inr (.inl ⟨t, v, rfl, rfl⟩)))⟩)
  | draw x y rows => exact .inr (.inr ⟨hs, .inr (.inr (.inr (.inr ⟨x, y, rows, rfl, rfl⟩)))⟩)
  | malformed => exact absurd hw (by simp [Request.wellFormed])

@[simp] theorem loadStart_some (start : Addr) : loadStart (some start) = start := rfl

@[simp] theorem loadStart_none : loadStart none = 0x200#12 := rfl

/-- An accepted LOAD, field by field. -/
theorem load_eq (start : Addr) (data : List Byte) (s : State) :
    s.load start data =
      { s with mem := storeBytes s.mem start.toNat data, pc := zext16 start, sc := 0 } := rfl

end Sys2Proof.Machine
end

