-- ==== Sys2Proof/Machine/Assembler.lean ====
section
/-! DEFINITION. The assembler notation of 30_encoding.md rule R77: how an instruction is written, and what
bytes a program of labelled lines stands for. There are no pseudo-instructions (R78). The core reads none
of this; it is the notation in which 95_test_vectors.md gives its programs. -/

namespace Sys2Proof.Machine

/-! ## How an instruction is written -/

/-- One hexadecimal digit. -/
def hexDigit (d : BitVec 4) : String :=
  (["0", "1", "2", "3", "4", "5", "6", "7", "8", "9", "A", "B", "C", "D", "E", "F"][d.toNat]?).getD ""

/-- A register is V0 to VF. -/
def regText (x : RegIdx) : String := "V" ++ hexDigit x

/-- Numbers are 0x hex: a byte in two digits. -/
def byteText (kk : Byte) : String := "0x" ++ hexDigit (kk.extractLsb' 4 4) ++ hexDigit (kk.extractLsb' 0 4)

/-- An address in three digits. -/
def addrText (nnn : Addr) : String :=
  "0x" ++ hexDigit (nnn.extractLsb' 8 4) ++ hexDigit (nnn.extractLsb' 4 4) ++
    hexDigit (nnn.extractLsb' 0 4)

/-- A mnemonic with two operands. -/
def twoText (m a b : String) : String := m ++ " " ++ a ++ ", " ++ b

/-- `SHR Vx` encodes y = 0; `SHR Vx, Vy` encodes y (R77). SHL likewise. -/
def shiftText (m : String) (x y : RegIdx) : String :=
  if y = 0x0#4 then m ++ " " ++ regText x else twoText m (regText x) (regText y)

/-- The line that stands for an instruction (R77). -/
def instrText : Instr → String
  | .cls => "CLS"
  | .ret => "RET"
  | .jp nnn => "JP " ++ addrText nnn
  | .call nnn => "CALL " ++ addrText nnn
  | .seByte x kk => twoText "SE" (regText x) (byteText kk)
  | .sneByte x kk => twoText "SNE" (regText x) (byteText kk)
  | .seReg x y => twoText "SE" (regText x) (regText y)
  | .ldByte x kk => twoText "LD" (regText x) (byteText kk)
  | .addByte x kk => twoText "ADD" (regText x) (byteText kk)
  | .ldReg x y => twoText "LD" (regText x) (regText y)
  | .orReg x y => twoText "OR" (regText x) (regText y)
  | .andReg x y => twoText "AND" (regText x) (regText y)
  | .xorReg x y => twoText "XOR" (regText x) (regText y)
  | .addReg x y => twoText "ADD" (regText x) (regText y)
  | .subReg x y => twoText "SUB" (regText x) (regText y)
  | .shr x y => shiftText "SHR" x y
  | .subnReg x y => twoText "SUBN" (regText x) (regText y)
  | .shl x y => shiftText "SHL" x y
  | .sneReg x y => twoText "SNE" (regText x) (regText y)
  | .ldI nnn => twoText "LD" "I" (addrText nnn)
  | .jpV0 nnn => twoText "JP" "V0" (addrText nnn)
  | .rnd x kk => twoText "RND" (regText x) (byteText kk)

/-! ## Programs with labels -/

/-- What a line places: an instruction with its operands as numbers; one of the four that take an
address, the address a label; or `DW w`, a word of data (R77). -/
inductive AsmItem where
  | instr (i : Instr)
  | jp (label : String)
  | call (label : String)
  | ldI (label : String)
  | jpV0 (label : String)
  | dw (w : Word)
deriving DecidableEq, Repr

/-- One line: an optional label before one item (R77). -/
structure AsmLine where
  label : Option String
  item : AsmItem
deriving DecidableEq, Repr

/-- The address of a label in lines placed from address `a` on, two bytes a line. -/
def labelAddr (name : String) : Nat → List AsmLine → Option Addr
  | _, [] => none
  | a, l :: ls => if l.label = some name then some (BitVec.ofNat 12 a) else labelAddr name (a + 2) ls

/-- The word of one line, in a program placed at `start`; none when a label is not defined. -/
def lineWord (start : Nat) (program : List AsmLine) (l : AsmLine) : Option Word :=
  match l.item with
  | .instr i => some (encode i)
  | .jp n => (labelAddr n start program).map (fun a => encode (.jp a))
  | .call n => (labelAddr n start program).map (fun a => encode (.call a))
  | .ldI n => (labelAddr n start program).map (fun a => encode (.ldI a))
  | .jpV0 n => (labelAddr n start program).map (fun a => encode (.jpV0 a))
  | .dw w => some w

/-- The bytes of the lines, each word the high byte first (R45, R64). -/
def assembleLines (start : Nat) (program : List AsmLine) : List AsmLine → Option (List Byte)
  | [] => some []
  | l :: ls =>
    match lineWord start program l, assembleLines start program ls with
    | some w, some bs => some (bytesOfWord w ++ bs)
    | _, _ => none

/-- The bytes of a program placed at `start`. -/
def assemble (start : Addr) (program : List AsmLine) : Option (List Byte) :=
  assembleLines start.toNat program program

end Sys2Proof.Machine
end

