-- ==== Sys2Proof/Tests/Slice0.lean ====
section
/-! SUPPORT. The model's own tests: what the well-formedness check refuses, words written out from the
encodings of R72, one or two vectors of 95_test_vectors.md for each instruction (named S<n> and V<n> as
there), vectors of the host's transactions, and for every statement that has hypotheses a concrete state
and operands that meet them (named witness_<statement>). -/

namespace Sys2Proof.Tests

open Machine Claims

/-! ## Helpers -/

/-- What holds of the next state, if there is one. -/
def nextState (o : Result) (p : State → Bool) : Bool :=
  match o with
  | .next t => p t
  | .fault _ => false
  | .refused _ => false

/-- One step on the instruction word `w`, from `s`. -/
def stepOn (w : Nat) (s : State) (p : State → Bool) : Bool := nextState (step (s.withFetchWord 16 w)) p

/-- Does one step on the word `w` at 0x200 fail, reporting it? -/
def failsOn (w : Nat) : Bool :=
  match step (State.reset.withFetchWord 16 w) with
  | .fault (.unknownOpcode op addr) => op == BitVec.ofNat 16 w && addr == 0x0200#16
  | .next _ => false
  | .refused _ => false

/-- Reset with two registers set. -/
def regs2 (x : RegIdx) (a : Byte) (y : RegIdx) (b : Byte) : State := (State.reset.setV x a).setV y b

/-- Reset with `n` entries on the stack. -/
def stacked (n : Fin 17) : State := State.reset.setSc n

/-- Reset with one pixel set, at column `x` of row `y`. -/
def pixel (x y : Nat) : State := State.reset.setFb (fbFlip fbClear x y)

/-! ## Well-formedness -/

/-- R80: a DRAW of 16 rows is refused. -/
theorem test_wellFormed_draw16 :
    (Request.draw 0#8 0#8 (List.replicate 16 0#8)).wellFormed = false := by decide

/-- R80: a DRAW of 15 rows is not. -/
theorem test_wellFormed_draw15 :
    (Request.draw 0#8 0#8 (List.replicate 15 0#8)).wellFormed = true := by decide

/-- R98: a reserved request is refused. -/
theorem test_wellFormed_reserved : Request.malformed.wellFormed = false := by decide

/-- R67 to R69: operands at the ends of their ranges are well formed. -/
theorem test_wellFormed_bounds :
    (Instr.jp 0xFFF#12).wellFormed = true ∧ (Instr.rnd 0xF#4 0xFF#8).wellFormed = true ∧
      (Instr.shl 0x0#4 0xF#4).wellFormed = true := by decide

/-- The checks behind them refuse what does not fit its field. -/
theorem test_wellFormed_checks :
    decide ((16 : Nat) < 16) = false ∧ decide ((256 : Nat) < 256) = false ∧
      decide ((4096 : Nat) < Config.memSize) = false := by decide

/-! ## Decoding: words written out from the patterns of R72 -/

theorem test_decode_cls : decodeWord 0b0000000011100000#16 = some .cls := by decide
theorem test_decode_ret : decodeWord 0b0000000011101110#16 = some .ret := by decide
theorem test_decode_jp : decodeWord 0b0001011001100110#16 = some (.jp 0x666#12) := by decide
theorem test_decode_call : decodeWord 0b0010001000000110#16 = some (.call 0x206#12) := by decide
theorem test_decode_seByte : decodeWord 0b0011101011111111#16 = some (.seByte 0xA#4 0xFF#8) := by decide
theorem test_decode_sneByte : decodeWord 0b0100101000000000#16 = some (.sneByte 0xA#4 0x00#8) := by decide
theorem test_decode_seReg : decodeWord 0b0101000100100000#16 = some (.seReg 0x1#4 0x2#4) := by decide
theorem test_decode_ldByte : decodeWord 0b0110101001000010#16 = some (.ldByte 0xA#4 0x42#8) := by decide
theorem test_decode_addByte : decodeWord 0b0111010110000000#16 = some (.addByte 0x5#4 0x80#8) := by decide
theorem test_decode_ldReg : decodeWord 0b1000001100010000#16 = some (.ldReg 0x3#4 0x1#4) := by decide
theorem test_decode_orReg : decodeWord 0b1000101010110001#16 = some (.orReg 0xA#4 0xB#4) := by decide
theorem test_decode_andReg : decodeWord 0b1000101010110010#16 = some (.andReg 0xA#4 0xB#4) := by decide
theorem test_decode_xorReg : decodeWord 0b1000101010110011#16 = some (.xorReg 0xA#4 0xB#4) := by decide
theorem test_decode_addReg : decodeWord 0b1000000011110100#16 = some (.addReg 0x0#4 0xF#4) := by decide
theorem test_decode_subReg : decodeWord 0b1000111111100101#16 = some (.subReg 0xF#4 0xE#4) := by decide
theorem test_decode_shr : decodeWord 0b1000000100100110#16 = some (.shr 0x1#4 0x2#4) := by decide
theorem test_decode_subnReg : decodeWord 0b1000111111100111#16 = some (.subnReg 0xF#4 0xE#4) := by decide
theorem test_decode_shl : decodeWord 0b1000000100101110#16 = some (.shl 0x1#4 0x2#4) := by decide
theorem test_decode_sneReg : decodeWord 0b1001101010110000#16 = some (.sneReg 0xA#4 0xB#4) := by decide
theorem test_decode_ldI : decodeWord 0b1010000100100011#16 = some (.ldI 0x123#12) := by decide
theorem test_decode_jpV0 : decodeWord 0b1011001000001010#16 = some (.jpV0 0x20A#12) := by decide
theorem test_decode_rnd : decodeWord 0b1100110000111100#16 = some (.rnd 0xC#4 0x3C#8) := by decide

/-- V80 to V89: words that decode to nothing. -/
theorem test_decode_unknown :
    [0x0000#16, 0x00E1#16, 0x0123#16, 0x5001#16, 0x8008#16, 0x800F#16, 0x9001#16, 0xD123#16, 0xE09E#16,
      0xF00A#16].all (fun w => (decodeWord w).isNone) = true := by decide

/-- The table's numbering: bit 0 the least significant bit of the word. -/
theorem test_decodeTableWord :
    decodeTableWord 16 0x8AB1 = some (.orReg 0xA#4 0xB#4) ∧ decodeTableWord 16 0xF00A = none := by decide

/-- A byte string that is too short is refused. -/
theorem test_decode_truncated :
    (match decode [0x12#8] with | .ok _ => false | .error e => e == .truncated) = true := by decide

/-! ## One step of each instruction -/

/-- V69 -/
theorem test_cls : stepOn 0x00E0 (pixel 3 5) (fun t => !fbGet t.fb 3 5 && t.pc == 0x0202#16) = true := by
  decide

/-- V52 -/
theorem test_ret : stepOn 0x00EE
    (((stacked 2).setSlot 0#4 0x0202#16).setSlot 1#4 0x0208#16)
    (fun t => t.pc == 0x0208#16 && t.sc == 1 && t.slot 1#4 == 0x0208#16) = true := by decide

/-- V53 -/
theorem test_ret_empty : stepOn 0x00EE State.reset (fun t => t.pc == 0x0000#16 && t.sc == 0) = true := by
  decide

/-- V54: the alternative EMPTY_POP_MODE, in a whole STEP. -/
theorem test_ret_slot0 : stepOn 0x00EE ((State.reset.setPopMode .slot0).setSlot 0#4 0x0202#16)
    (fun t => t.pc == 0x0202#16 && t.sc == 0) = true := by decide

/-- S4 -/
theorem test_jp : stepOn 0x1666 State.reset (fun t => t.pc == 0x0666#16) = true := by decide

/-- V49: the return address wraps. -/
theorem test_call : stepOn 0x2300 (State.reset.setPc 0xFFFE#16)
    (fun t => t.slot 0#4 == 0x0000#16 && t.sc == 1 && t.pc == 0x0300#16) = true := by decide

/-- V51: a full stack. -/
theorem test_call_full : stepOn 0x2400 (((stacked 16).setSlot 15#4 0x0ABC#16).setPc 0x0300#16)
    (fun t => t.slot 15#4 == 0x0302#16 && t.sc == 16 && t.pc == 0x0400#16) = true := by decide

/-- V67: a skip that wraps. -/
theorem test_seByte : stepOn 0x3000 (State.reset.setPc 0xFFFE#16) (fun t => t.pc == 0x0002#16) = true := by
  decide

/-- V59 -/
theorem test_seByte_no : stepOn 0x3001 State.reset (fun t => t.pc == 0x0202#16) = true := by decide

/-- V60 -/
theorem test_sneByte : stepOn 0x4001 State.reset (fun t => t.pc == 0x0204#16) = true := by decide

/-- V61 -/
theorem test_sneByte_no : stepOn 0x4000 State.reset (fun t => t.pc == 0x0202#16) = true := by decide

/-- V62 -/
theorem test_seReg : stepOn 0x5120 (regs2 1#4 0x07#8 2#4 0x07#8) (fun t => t.pc == 0x0204#16) = true := by
  decide

/-- V1 -/
theorem test_ldByte : stepOn 0x6A42 State.reset
    (fun t => t.getV 0xA#4 == 0x42#8 && t.pc == 0x0202#16) = true := by decide

/-- V12 -/
theorem test_addByte : stepOn 0x7001 (regs2 0#4 0xFF#8 0xF#4 0xAA#8)
    (fun t => t.getV 0#4 == 0x00#8 && t.getV 0xF#4 == 0xAA#8) = true := by decide

/-- V3 -/
theorem test_ldReg : stepOn 0x8010 (regs2 0#4 0x00#8 1#4 0x99#8)
    (fun t => t.getV 0#4 == 0x99#8 && t.getV 1#4 == 0x99#8) = true := by decide

/-- V33 -/
theorem test_orReg : stepOn 0x8011 ((regs2 0#4 0x0F#8 1#4 0xF0#8).setV 0xF#4 0x55#8)
    (fun t => t.getV 0#4 == 0xFF#8 && t.getV 0xF#4 == 0x55#8) = true := by decide

/-- V34 -/
theorem test_andReg : stepOn 0x8012 (regs2 0#4 0x3C#8 1#4 0x0F#8) (fun t => t.getV 0#4 == 0x0C#8) = true := by
  decide

/-- V35 -/
theorem test_xorReg : stepOn 0x8013 (regs2 0#4 0xFF#8 1#4 0xFF#8) (fun t => t.getV 0#4 == 0x00#8) = true := by
  decide

/-- S5 -/
theorem test_addReg : stepOn 0x8014 (regs2 0#4 0xFE#8 1#4 0x03#8)
    (fun t => t.getV 0#4 == 0x01#8 && t.getV 0xF#4 == 0x01#8) = true := by decide

/-- V19: the carry wins. -/
theorem test_addReg_vf : stepOn 0x8FE4 (regs2 0xF#4 0xFF#8 0xE#4 0x01#8)
    (fun t => t.getV 0xF#4 == 0x01#8) = true := by decide

/-- S6 -/
theorem test_subReg : stepOn 0x8015 (regs2 0#4 0x03#8 1#4 0x05#8)
    (fun t => t.getV 0#4 == 0xFE#8 && t.getV 0xF#4 == 0x00#8) = true := by decide

/-- V26: flag and difference both use the old VF. -/
theorem test_subReg_vf : stepOn 0x80F5 (regs2 0#4 0x10#8 0xF#4 0x01#8)
    (fun t => t.getV 0#4 == 0x0F#8 && t.getV 0xF#4 == 0x01#8) = true := by decide

/-- V40: Vy is not read. -/
theorem test_shr : stepOn 0x8126 (regs2 1#4 0x02#8 2#4 0xFF#8)
    (fun t => t.getV 1#4 == 0x01#8 && t.getV 0xF#4 == 0x00#8) = true := by decide

/-- V41: the result wins. -/
theorem test_shr_vf : stepOn 0x8F06 (State.reset.setV 0xF#4 0x03#8) (fun t => t.getV 0xF#4 == 0x01#8) = true := by
  decide

/-- V30 -/
theorem test_subnReg : stepOn 0x8017 (regs2 0#4 0x05#8 1#4 0x03#8)
    (fun t => t.getV 0#4 == 0xFE#8 && t.getV 0xF#4 == 0x00#8) = true := by decide

/-- V31: the difference wins. -/
theorem test_subnReg_vf : stepOn 0x8FE7 (regs2 0xF#4 0x03#8 0xE#4 0x05#8)
    (fun t => t.getV 0xF#4 == 0x02#8) = true := by decide

/-- V42: bit 0, not bit 7. -/
theorem test_shl : stepOn 0x810E (State.reset.setV 1#4 0x80#8)
    (fun t => t.getV 1#4 == 0x00#8 && t.getV 0xF#4 == 0x00#8) = true := by decide

/-- V43 -/
theorem test_shl_odd : stepOn 0x810E (State.reset.setV 1#4 0x81#8)
    (fun t => t.getV 1#4 == 0x02#8 && t.getV 0xF#4 == 0x01#8) = true := by decide

/-- V64 -/
theorem test_sneReg : stepOn 0x9120 (regs2 1#4 0x07#8 2#4 0x08#8) (fun t => t.pc == 0x0204#16) = true := by
  decide

/-- V6 -/
theorem test_ldI : stepOn 0xAFFF State.reset (fun t => t.i == 0x0FFF#16 && t.pc == 0x0202#16) = true := by
  decide

/-- V55 -/
theorem test_jpV0 : stepOn 0xBFFF (State.reset.setV 0#4 0xFF#8) (fun t => t.pc == 0x00FE#16) = true := by
  decide

/-- V9 -/
theorem test_rnd : stepOn 0xCC3C (State.reset.offerRandom 0xA5#8)
    (fun t => t.getV 0xC#4 == 0x24#8 && t.rnd.served == 1) = true := by decide

/-- V7: the byte is requested whatever kk is. -/
theorem test_rnd_zero : stepOn 0xC000 (State.reset.offerRandom 0xFF#8)
    (fun t => t.getV 0#4 == 0x00#8 && t.rnd == ⟨[], 1⟩) = true := by decide

/-! ## Failures, fetch and transactions -/

/-- S9, V87 and V92 -/
theorem test_unknown : failsOn 0xFFFF = true ∧ failsOn 0xD123 = true ∧ failsOn 0x0000 = true := by decide

/-- V90: the reported address is pc mod 4096. -/
theorem test_unknown_addr :
    (((State.reset.setPc 0x1234#16).withFetchWord 16 0xFFFF).transact .step).1 =
      .unknownOpcode 0xFFFF#16 0x0234#16 := by decide

/-- V93: an unaligned fetch over the end of memory. -/
theorem test_fetch_wraps : nextState
    (step { State.reset with pc := 0x0FFF#16, mem := [(0x000, 0x42#8), (0xFFF, 0x60#8)] })
    (fun t => t.getV 0#4 == 0x42#8 && t.pc == 0x1001#16) = true := by decide

/-- V95 -/
theorem test_read_mem :
    (State.transact (.read (.mem 0x1123#16)) { State.reset with mem := [(0x123, 0xAB#8)] }).1 =
      .value 0x00AB#16 := by decide

/-- V98 and V99 -/
theorem test_load :
    (State.reset.transact (.load (some 0xFFF#12) [0xAA#8])).1 = .ok ∧
    (State.reset.transact (.load (some 0xFFF#12) [0xAA#8])).2.byteAt 0xFFF = 0xAA#8 ∧
    (State.reset.transact (.load (some 0xFFF#12) [0xAA#8])).2.pc = 0x0FFF#16 ∧
    (State.reset.transact (.load (some 0xFFF#12) [0xAA#8, 0xBB#8])) = (.loadTooLarge, State.reset) := by decide

/-- V101 -/
theorem test_load_empty :
    ((stacked 3).setV 5#4 0x11#8).transact (.load (some 0x300#12) []) =
      (.ok, (State.reset.setV 5#4 0x11#8).setPc 0x0300#16) := by decide

/-- S2 and R55: a LOAD that names no start begins at 0x200, whatever PC was. -/
theorem test_load_default :
    ((State.reset.setPc 0x0ABC#16).transact (.load none [0xAA#8])) =
      (.ok, { State.reset with mem := [(0x200, 0xAA#8)] }) := by decide

/-- V102 and V104 -/
theorem test_timer_and_reserved :
    (State.reset.transact (.writeTimer .dt 0x3C#8)) = (.ok, State.reset.setDt 0x3C#8) ∧
    (State.reset.transact .malformed) = (.badRequest, State.reset) := by decide

/-- V70 and V71 -/
theorem test_draw_twice :
    (State.reset.transact (.draw 0#8 0#8 [0xF0#8])).1 = .didErase false ∧
    ((State.reset.transact (.draw 0#8 0#8 [0xF0#8])).2.transact (.draw 0#8 0#8 [0xF0#8])) =
      (.didErase true, State.reset) := by decide

/-- S8, with one bit of the row off (0xFD), so that the order of the bits shows too (D10). -/
theorem test_draw_wraps :
    ((List.range 64).filter (fun x =>
      fbGet (State.reset.transact (.draw 58#8 0#8 [0xFD#8])).2.fb x 0)) = [1, 58, 59, 60, 61, 62, 63] := by
  decide

/-- V72: the rows wrap. -/
theorem test_draw_rows_wrap :
    fbGet (State.reset.transact (.draw 0#8 31#8 [0x80#8, 0x80#8])).2.fb 0 31 = true ∧
    fbGet (State.reset.transact (.draw 0#8 31#8 [0x80#8, 0x80#8])).2.fb 0 0 = true := by decide

/-- V73 -/
theorem test_draw_erases :
    ((pixel 1 0).transact (.draw 0#8 0#8 [0xC0#8])) =
      (.didErase true, pixel 0 0) := by decide

/-- V104 on the pins: req_op = 5. -/
theorem test_pins_reserved :
    (State.reset.tick ⟨false, true, 5#3, 0#4, 0#16, 0#16, false, 0#8, false, 0#8⟩).fsm = .badReq := by
  decide

/-- R97: rst abandons a transaction. -/
theorem test_rst : (State.tick ⟨true, true, 0#3, 0#4, 0#16, 0#16, false, 0#8, false, 0#8⟩
    (State.reset.setFsm .execute)) = State.reset := by decide

/-! ## Assembler notation -/

/-- R77's forms, as the listings of 95_test_vectors.md write them. -/
theorem test_instrText :
    instrText (.jpV0 0x20A#12) = "JP V0, 0x20A" ∧ instrText (.shr 0x1#4 0x0#4) = "SHR V1" ∧
    instrText (.rnd 0xC#4 0x3C#8) = "RND VC, 0x3C" ∧ instrText (.ldI 0x123#12) = "LD I, 0x123" ∧
    instrText (.seReg 0x0#4 0x1#4) = "SE V0, V1" := by decide

/-- Program P1's listing and its bytes. -/
theorem test_assemble :
    assemble 0x200#12
      [⟨none, .instr (.ldByte 0x0#4 0x00#8)⟩, ⟨none, .instr (.ldByte 0x1#4 0x05#8)⟩,
        ⟨some "loop", .instr (.addByte 0x0#4 0x01#8)⟩, ⟨none, .instr (.seReg 0x0#4 0x1#4)⟩,
        ⟨none, .jp "loop"⟩, ⟨some "done", .jp "done"⟩] =
      some [0x60#8, 0x00#8, 0x61#8, 0x05#8, 0x70#8, 0x01#8, 0x50#8, 0x10#8, 0x12#8, 0x04#8, 0x12#8,
        0x0A#8] := by decide

/-! ## Witnesses: the hypotheses of each statement can be met -/

/-- Reset with a word the next STEP fetches. -/
def fetching (w : Nat) : State := State.reset.withFetchWord 16 w

theorem witness_DecodeOfEncode :
    (Instr.jp 0xFFF#12).wellFormed = true ∧ (Instr.shl 0xF#4 0xF#4).wellFormed = true ∧
      (Instr.rnd 0x0#4 0x00#8).wellFormed = true := by decide

theorem witness_EncodeOfDecode :
    decodeWord 0xCFFF#16 = some (.rnd 0xF#4 0xFF#8) ∧ decodeWord 0x8FFE#16 = some (.shl 0xF#4 0xF#4) := by
  decide

/-- The first, the last and no entry of the table. -/
theorem witness_DecodeTakesFirstMatchingEntry :
    (∃ e after, handlerTable = [] ++ e :: after ∧ 0x00E0#16 &&& e.mask = e.pattern) ∧
    (∃ before e, handlerTable = before ++ e :: [] ∧
      (∀ e' ∈ before, 0xCFFF#16 &&& e'.mask ≠ e'.pattern) ∧ 0xCFFF#16 &&& e.mask = e.pattern) ∧
    (∀ e ∈ handlerTable, 0xD000#16 &&& e.mask ≠ e.pattern) ∧
    State.reset.fsm = .idle ∧ ∀ e ∈ handlerTable, State.reset.fetch &&& e.mask ≠ e.pattern := by
  refine ⟨⟨_, _, rfl, by decide⟩, ⟨handlerTable.take 21, ⟨0xF000#16, 0xC000#16, fun op =>
    .rnd (fieldX op) (fieldKK op)⟩, rfl, by decide, by decide⟩, by decide, rfl, by decide⟩

theorem witness_AtMostOneEntryMatches :
    ∃ e, handlerTable[21]? = some e ∧ 0xCFFF#16 &&& e.mask = e.pattern := ⟨_, rfl, by decide⟩

/-- A step that decodes, at the top of memory, and one that does not. -/
theorem witness_StepRunsDecodedInstruction :
    (((State.reset.setPc 0x0FFF#16).withFetchWord 16 0x1200).fsm = .idle ∧
      ((State.reset.setPc 0x0FFF#16).withFetchWord 16 0x1200).mem.read (0x0FFF % 4096) = 0x12#8 ∧
      ((State.reset.setPc 0x0FFF#16).withFetchWord 16 0x1200).mem.read ((0x0FFF + 1) % 4096) = 0x00#8 ∧
      decodeWord (0x12#8 ++ 0x00#8) = some (.jp 0x200#12)) ∧
    State.reset.fsm = .idle ∧ decodeWord (0x00#8 ++ 0x00#8) = none := by decide

/-- Decoding and failing states that accept a STEP: for FetchIsTwoBytesBigEndian,
FailedStepReportsAndRepeats, NothingElseFails and the clocked statements. -/
theorem witness_decoding_and_failing :
    (fetching 0x00E0).fsm = .idle ∧ decodeWord (fetching 0x00E0).fetch = some .cls ∧
    (fetching 0xC0FF).fsm = .idle ∧ decodeWord (fetching 0xC0FF).fetch = some (.rnd 0x0#4 0xFF#8) ∧
    State.reset.fsm = .idle ∧ decodeWord State.reset.fetch = none := by decide

/-- Requests that fail as the statement says, and the longest sprite. -/
theorem witness_NothingElseFails :
    (State.reset.transact .step).1 = .unknownOpcode 0x0000#16 0x0200#16 ∧
    (State.reset.transact (.load (some 0xFFF#12) [0#8, 0#8])).1 = .loadTooLarge ∧
    4096 < startNat (some 0xFFF#12) + [0#8, 0#8].length ∧
    Request.step.wellFormed = true ∧ (Request.load (some 0xFFF#12) [0#8, 0#8]).wellFormed = true ∧
    (List.replicate 15 (0xFF#8 : Byte)).length ≤ 15 := by decide

theorem witness_SequentialAdvancesByTwo :
    sequential .cls = true ∧ sequential (.rnd 0xF#4 0xFF#8) = true ∧ sequential (.shl 0xF#4 0xF#4) = true := by
  decide

theorem witness_PcAfterEachTransaction :
    sequential .cls = true ∧ Instr.sneReg 0xF#4 0xF#4 ∈
      [Instr.seByte 0xF#4 0xFF#8, .sneByte 0xF#4 0xFF#8, .seReg 0xF#4 0xF#4, .sneReg 0xF#4 0xF#4] ∧
    Instr.call 0xFFF#12 ∈ [Instr.jp 0xFFF#12, .call 0xFFF#12] ∧
    State.reset.fsm = .idle ∧ decodeWord State.reset.fetch = none ∧
    startNat (some 0xFFF#12) + ([0xAA#8] : List Byte).length ≤ 4096 ∧
    startNat none + ([0xAA#8] : List Byte).length ≤ 4096 ∧
    (fetching 0x1200).fsm = .idle ∧
    decodeWord (memRead2 (fetching 0x1200).mem (fetching 0x1200).pc.toNat) = some (.jp 0x200#12) ∧
    decodeWord (memRead2 State.reset.mem State.reset.pc.toNat) = none := by decide

/-- The stack empty under either EMPTY_POP_MODE: for ReturnPopsIntoPc. -/
theorem witness_ReturnPopsIntoPc :
    State.reset.sc.val = 0 ∧ State.reset.popMode = .zero ∧
    (State.reset.setPopMode .slot0).sc.val = 0 ∧ (State.reset.setPopMode .slot0).popMode = .slot0 := by
  decide

/-- The stack empty, with one entry, with 15 and full: for ReturnPopsIntoPc, CallPushesReturnAddress,
PopGivesNewestAddress and CallThenReturnComesBack. -/
theorem witness_stack :
    (stacked 0).sc.val = 0 ∧ (stacked 0).sc.val = (0x0#4).toNat ∧ (stacked 1).sc.val = (0x0#4).toNat + 1 ∧
    (stacked 15).sc.val = (0xF#4).toNat ∧ (stacked 15).sc.val < 16 ∧ 0 < (stacked 16).sc.val ∧
    (stacked 16).sc.val = (0xF#4).toNat + 1 ∧ (stacked 16).sc.val = 16 := by decide

theorem witness_CallThenReturnComesBack :
    ∃ t u, exec (.call 0x300#12) (stacked 15) = .next t ∧ exec (.call 0x300#12) (stacked 16) = .next u ∧
      (0xE#4).toNat < (stacked 16).sc.val ∧ (0xE#4 : RegIdx) ≠ 0xF#4 := ⟨_, _, rfl, rfl, by decide, by decide⟩

theorem witness_JumpSetsPc :
    State.reset.pc.toNat = (0x200#12).toNat ∧ (0x1FFF#16) &&& 0xF000#16 = 0x1000#16 := by decide

/-- A comparison that holds and one that does not: for the skips. -/
theorem witness_skips :
    (regs2 0xF#4 0xFF#8 0x0#4 0xFF#8).getV 0xF#4 = 0xFF#8 ∧
    (regs2 0xF#4 0xFF#8 0x0#4 0xFF#8).getV 0xF#4 = (regs2 0xF#4 0xFF#8 0x0#4 0xFF#8).getV 0x0#4 ∧
    State.reset.getV 0x0#4 ≠ 0xFF#8 ∧
    (regs2 0xF#4 0xFF#8 0x0#4 0x00#8).getV 0xF#4 ≠ (regs2 0xF#4 0xFF#8 0x0#4 0x00#8).getV 0x0#4 := by decide

theorem witness_FrameOfControlTransfers :
    Instr.sneByte 0xF#4 0xFF#8 ∈
      [Instr.jp 0xFFF#12, .jpV0 0xFFF#12, .seByte 0xF#4 0xFF#8, .sneByte 0xF#4 0xFF#8] := by decide

theorem witness_FrameOfLoadsAndClear :
    Instr.ldReg 0xF#4 0xF#4 ∈ [Instr.ldByte 0xF#4 0xFF#8, .addByte 0xF#4 0xFF#8, .ldReg 0xF#4 0xF#4] := by
  decide

/-- A destination that is not VF, and x = y: for the statements on loads, logic and shifts. -/
theorem witness_destinations :
    (0x0#4 : RegIdx) ≠ 0xF#4 ∧ (0xE#4 : RegIdx) ≠ 0xF#4 ∧ (0xF#4 : RegIdx) = 0xF#4 ∧ (7 : Nat) < 8 := by
  decide

/-- Sums and differences on both sides of their flags' boundaries. -/
theorem witness_AddRegistersWithCarry :
    ((regs2 0#4 0xFF#8 1#4 0x01#8).getV 0#4).toNat + ((regs2 0#4 0xFF#8 1#4 0x01#8).getV 1#4).toNat > 255 ∧
    ((regs2 0#4 0xFF#8 1#4 0x00#8).getV 0#4).toNat + ((regs2 0#4 0xFF#8 1#4 0x00#8).getV 1#4).toNat ≤ 255 := by
  decide

theorem witness_SubtractRegisters :
    ((regs2 0#4 0x05#8 1#4 0x05#8).getV 1#4).toNat ≤ ((regs2 0#4 0x05#8 1#4 0x05#8).getV 0#4).toNat ∧
    ((regs2 0#4 0x05#8 1#4 0x06#8).getV 0#4).toNat < ((regs2 0#4 0x05#8 1#4 0x06#8).getV 1#4).toNat := by
  decide

theorem witness_SubtractRegistersReversed :
    ((regs2 0#4 0x05#8 1#4 0x05#8).getV 0#4).toNat ≤ ((regs2 0#4 0x05#8 1#4 0x05#8).getV 1#4).toNat ∧
    ((regs2 0#4 0x06#8 1#4 0x05#8).getV 1#4).toNat < ((regs2 0#4 0x06#8 1#4 0x05#8).getV 0#4).toNat := by
  decide

theorem witness_ClearScreen : ∀ x y, fbGet State.reset.fb x y = false := fun x y => fbGet_fbClear x y

/-- An instruction that gives a next state: for the statements on every instruction. -/
theorem witness_whole_machine :
    ∃ t u v, exec (.addReg 0x0#4 0x1#4) State.reset = .next t ∧ writesFlag (.addReg 0x0#4 0x1#4) = true ∧
      destination (.addReg 0x0#4 0x1#4) ≠ some 0xF#4 ∧
      exec (.ldByte 0xF#4 0x07#8) State.reset = .next u ∧ u.getV 0xF#4 ≠ State.reset.getV 0xF#4 ∧
      asksRandom (.ldByte 0xF#4 0x07#8) = false ∧ (Instr.ldByte 0xF#4 0x07#8) ≠ .ret ∧
      (∀ nnn, Instr.ldByte 0xF#4 0x07#8 ≠ .call nnn) ∧
      exec (.rnd 0x0#4 0xFF#8) State.reset = .next v ∧ asksRandom (.rnd 0x0#4 0xFF#8) = true :=
  ⟨_, _, _, rfl, rfl, by decide, rfl, by decide, rfl, by decide, fun _ => by simp, rfl, rfl⟩

/-- A state reached from reset, with I at its greatest. -/
theorem witness_OnlyLoadIndexWritesI :
    ∃ t, Reaches State.reset t ∧ t.i = 0x0FFF#16 ∧ t.fsm = .idle :=
  ⟨_, ⟨[.load (some 0x200#12) [0xAF#8, 0xFF#8], .step], rfl⟩, by decide, by decide⟩

/-- The three ways a pixel changes. -/
theorem witness_OnlyClsDrawResetChangePixels :
    fbGet ((pixel 3 5).transact .reset).2.fb 3 5 ≠ fbGet (pixel 3 5).fb 3 5 ∧
    fbGet ((pixel 3 5).transact (.draw 3#8 5#8 [0x80#8])).2.fb 3 5 ≠ fbGet (pixel 3 5).fb 3 5 ∧
    fbGet (((pixel 3 5).withFetchWord 16 0x00E0).transact .step).2.fb 3 5 ≠ fbGet (pixel 3 5).fb 3 5 := by
  decide

/-- 1, 16 and 17 pushes from empty. -/
theorem witness_PushesFillThenOverwriteTop :
    State.reset.sc.val = 0 ∧ (0x0#4).toNat < [0x0202#16].length ∧
    (0xF#4).toNat < (List.replicate 16 0x0202#16).length ∧ (List.replicate 16 0x0202#16).length ≤ 16 ∧
    (0xE#4).toNat < (List.replicate 17 0x0202#16).length ∧ (0xE#4).toNat < 15 ∧
    16 ≤ (List.replicate 17 0x0202#16).length ∧ [0x0202#16].length ≤ (0x1#4).toNat := by decide

theorem witness_WordWriteIsTwoBytesWrapped :
    Memory.wf [] ∧ Memory.wf [(0x000, 0x42#8), (0xFFF, 0x60#8)] := by decide

/-- The last LOAD that fits, an empty one, and the first that does not fit. -/
theorem witness_LoadWritesProgramOrRefuses :
    State.reset.fsm = .idle ∧ State.reset.mem.wf ∧ startNat (some 0xFFF#12) + [0xAA#8].length ≤ 4096 ∧
    startNat (some 0x200#12) + ([] : List Byte).length ≤ 4096 ∧
    4096 < startNat (some 0xFFF#12) + [0xAA#8, 0xBB#8].length ∧
    (0xFFE < 4096 ∧ 0xFFE < startNat (some 0xFFF#12)) := by decide

/-- V96 and V97: without a start, 3584 bytes fit and 3585 do not. -/
theorem witness_load_default :
    startNat none + (List.replicate 3584 0xAA#8).length ≤ 4096 ∧
    4096 < startNat none + (List.replicate 3585 0xAA#8).length := by
  rw [List.length_replicate, List.length_replicate]
  decide

theorem witness_LoadedInstructionRunsNext :
    State.reset.fsm = .idle ∧ State.reset.mem.wf ∧
    startNat (some 0xFFE#12) + 2 + ([] : List Byte).length ≤ 4096 ∧
    startNat none + 2 + ([] : List Byte).length ≤ 4096 := by decide

/-- The longest sprite and the empty one, their first and last bits, and a pixel none of them touches. -/
theorem witness_draws :
    State.reset.fsm = .idle ∧ (List.replicate 15 0xFF#8).length ≤ 15 ∧ ([] : List Byte).length ≤ 15 ∧
    14 < (List.replicate 15 0xFF#8).length ∧ 7 < 8 ∧
    (∀ r b, r < ([0xFF#8] : List Byte).length → b < 8 →
      ¬(((0#8 : Byte).toNat + b) % 64 = 8 % 64 ∧ ((0#8 : Byte).toNat + r) % 32 = 0 % 32)) := by
  refine ⟨rfl, by decide, by decide, by decide, by decide, fun r b _ hb => ?_⟩
  simp
  omega

/-- LOADs that fit and that do not, with an announced length. -/
theorem witness_ClockedLoadRefinesLoad :
    State.reset.fsm = .idle ∧ (0x000#12).toNat + (List.replicate 4096 0#8).length ≤ 4096 ∧
      4096 < (0xFFF#12).toNat + (2#13).toNat := by
  refine ⟨rfl, ?_, by decide⟩
  rw [List.length_replicate]
  decide

theorem witness_ReadWriteTimerAndBadRequest : State.reset.fsm = .idle := rfl

theorem witness_ResetValuesFromAnyState :
    ∃ t, t ∈ [((State.reset.setFsm .execute).transact .reset).2,
      (State.reset.setFsm .execute).tick { stepPins 0#8 with rst := true }] := ⟨_, List.mem_cons_self⟩

theorem witness_BusyCoreSeesOnlyReset :
    (State.reset.setFsm .execute).fsm ≠ .idle ∧ Request.step ≠ .reset := by decide

/-- States that meet the invariant: reset, one in which a step completes, and one in the middle of a
LOAD. -/
theorem witness_invariants :
    Inv State.reset ∧ (Inv (fetching 0xAFFF) ∧ ∃ t, step (fetching 0xAFFF) = .next t) ∧
      Inv (State.reset.setFsm (.loadWrite 0xFFF#12 1#13 0)) :=
  ⟨⟨by decide, by decide, trivial⟩, ⟨⟨by decide, by decide, trivial⟩, _, rfl⟩,
    ⟨by decide, by decide, by decide, by decide⟩⟩

end Sys2Proof.Tests
end

section
/-! PROOFS. The pieces of state of 10_state.md: the program counter (R26), the index register (R25) and the
call stack under pushes (R31). -/

namespace Sys2Proof.Proofs

open Machine Claims

/-! ## Reachable states -/

/-- What every transaction keeps holds of every state transactions reach from one where it holds. -/
theorem reaches_induction {P : State → Prop} (keeps : ∀ r s, P s → P (State.transact r s).2) {s t : State}
    (hs : P s) (h : Reaches s t) : P t := by
  obtain ⟨rs, rfl⟩ := h
  induction rs generalizing s with
  | nil => exact hs
  | cons r rs ih => exact ih (keeps r s hs)

/-! ## The program counter (R26) -/

/-- R84: a sequential instruction leaves PC two bytes on. -/
theorem exec_pc_of_sequential {i : Instr} {s t : State} (hi : sequential i = true)
    (h : exec i s = .next t) : t.pc = s.pc + 2#16 := by
  cases i with
  | ret | jp | call | seByte | sneByte | seReg | sneReg | jpV0 => cases hi
  | _ => cases h; rfl

/-- R84: a sequential instruction completes, and PC rises by 2. -/
theorem exec_sequential {i : Instr} (hi : sequential i = true) (s : State) :
    ∃ t, exec i s = .next t ∧ PcRises 2 s t := by
  obtain ⟨t, h⟩ := exec_isNext i s
  refine ⟨t, h, ?_⟩
  rw [PcRises, exec_pc_of_sequential hi h, pc_add_two_toNat]

/-- R104: a conditional skip raises PC by 2 or by 4, whatever its condition. -/
theorem pcRises_skipIf (c : Bool) (s : State) :
    PcRises 2 s (s.skipIf c) ∨ PcRises 4 s (s.skipIf c) := by
  cases c
  · exact .inl (pc_add_two_toNat s)
  · exact .inr (pc_add_four_toNat s)

/-- R55: the start of a LOAD as a number, 0x200 where the host names none. -/
theorem startNat_eq (start : Option Addr) : startNat start = (loadStart start).toNat := by
  cases start <;> rfl

/-- R89: an accepted LOAD leaves what `State.load` says. -/
theorem transact_load_of_fits {s : State} (hs : s.fsm = .idle) {start : Option Addr} {data : List Byte}
    (hfit : startNat start + data.length ≤ 4096) :
    s.transact (.load start data) = (.ok, s.load (loadStart start) data) := by
  have hfits : loadFits (loadStart start) data.length = true := by
    rw [startNat_eq] at hfit
    exact decide_eq_true hfit
  rw [transact_of_idle hs rfl]
  exact if_pos hfits

/-- Settles O12: each kind of instruction, the failed STEP and the LOAD by its own equation. -/
theorem pcAfterEachTransaction : Obligations.PcAfterEachTransaction := by
  refine ⟨fun i s hi => exec_sequential hi s, fun x y kk s i hi => ?skip, fun nnn s i hi => ?jump,
    fun nnn s => ⟨_, rfl, operandIndexed_toNat s nnn⟩, fun s => ⟨_, rfl, rfl⟩, fun s hs hw => ?failed,
    fun s start data hs hfit => ?load,
    fun s hs => ⟨fun i hi => step_of_decode hs hi, fun hw => ⟨_, step_of_unknown hs hw⟩⟩⟩
  case skip =>
    simp only [List.mem_cons, List.not_mem_nil, or_false] at hi
    rcases hi with rfl | rfl | rfl | rfl <;> exact ⟨_, rfl, pcRises_skipIf _ s⟩
  case jump =>
    simp only [List.mem_cons, List.not_mem_nil, or_false] at hi
    rcases hi with rfl | rfl <;> exact ⟨_, rfl, zext16_toNat nnn⟩
  case failed => rw [transact_step_of_unknown hs hw, State.setIr_pc]
  case load => rw [transact_load_of_fits hs hfit, load_eq, startNat_eq]; exact zext16_toNat _

/-! ## The index register (R25) -/

/-- An instruction other than LD I runs alike whatever I holds, and carries I along: it neither reads nor
writes I. -/
theorem exec_setI {i : Instr} {s t : State} (hi : ∀ nnn, i ≠ .ldI nnn) (h : exec i s = .next t) (w : Word) :
    exec i (s.setI w) = .next (t.setI w) := by
  cases i with
  | ldI nnn => exact absurd rfl (hi nnn)
  | ret => rw [exec_ret] at h ⊢; cases h; rfl
  | call nnn => rw [exec_call] at h ⊢; cases h; rfl
  | seByte x kk => rw [exec_seByte] at h ⊢; cases h; rfl
  | sneByte x kk => rw [exec_sneByte] at h ⊢; cases h; rfl
  | seReg x y => rw [exec_seReg] at h ⊢; cases h; rfl
  | sneReg x y => rw [exec_sneReg] at h ⊢; cases h; rfl
  | _ => cases h; rfl

/-- An instruction other than LD I leaves I: it carries along the I it started with. -/
theorem exec_i_of_ne_ldI {i : Instr} {s t : State} (hi : ∀ nnn, i ≠ .ldI nnn) (h : exec i s = .next t) :
    t.i = s.i := by
  have carried : Host.Outcome.next t = .next (t.setI s.i) := h.symm.trans (exec_setI hi h s.i)
  rw [Host.Outcome.next.inj carried, State.setI_i]

/-- LD I overwrites I, so what I held before makes no difference (R123). -/
theorem exec_ldI_setI (nnn : Addr) (s : State) (w : Word) :
    exec (.ldI nnn) (s.setI w) = exec (.ldI nnn) s := rfl

/-- What an instruction does to I. -/
theorem exec_i_cases {i : Instr} {s t : State} (h : exec i s = .next t) :
    (∃ nnn, i = .ldI nnn ∧ t.i.toNat = nnn.toNat) ∨ ((∀ nnn, i ≠ .ldI nnn) ∧ t.i = s.i) := by
  by_cases hi : ∃ nnn, i = .ldI nnn
  · obtain ⟨nnn, rfl⟩ := hi
    cases h
    exact .inl ⟨nnn, rfl, zext16_toNat nnn⟩
  · have hne : ∀ nnn, i ≠ .ldI nnn := fun nnn e => hi ⟨nnn, e⟩
    exact .inr ⟨hne, exec_i_of_ne_ldI hne h⟩

/-- Two states that differ only in I lead to next states that differ at most in I. -/
theorem exec_ignores_i {i : Instr} {s t : State} (h : exec i s = .next t) (w : Word) :
    ∃ u, exec i (s.setI w) = .next u ∧ u.setI t.i = t := by
  by_cases hi : ∃ nnn, i = .ldI nnn
  · obtain ⟨nnn, rfl⟩ := hi
    exact ⟨t, by rw [exec_ldI_setI, h], rfl⟩
  · exact ⟨t.setI w, exec_setI (fun nnn e => hi ⟨nnn, e⟩) h w, rfl⟩

/-- An instruction keeps I within the 12 bits of an address. -/
theorem exec_i_le {i : Instr} {s t : State} (h : exec i s = .next t) (hs : s.i.toNat ≤ 0x0FFF) :
    t.i.toNat ≤ 0x0FFF := by
  obtain ⟨nnn, -, ht⟩ | ⟨-, ht⟩ := exec_i_cases h
  · omega
  · rwa [ht]

/-- Every transaction keeps I within the 12 bits of an address. -/
theorem transact_i_le (r : Request) (s : State) (hs : s.i.toNat ≤ 0x0FFF) :
    (s.transact r).2.i.toNat ≤ 0x0FFF := by
  obtain unchanged | ⟨-, reset⟩ | ⟨-, ⟨_, _, -, -, load⟩ | ⟨_, -, -, ran⟩ | ⟨-, -, failed⟩ |
    ⟨timer, _, -, wrote⟩ | ⟨_, _, _, -, drew⟩⟩ := transact_cases r s
  · rwa [unchanged]
  · rw [reset, State.resetCore_eq]; exact Nat.zero_le _
  · rwa [load, load_eq]
  · exact exec_i_le ran hs
  · rwa [failed, State.setIr_i]
  · rw [wrote]; cases timer <;> exact hs
  · rwa [drew, State.setFb_i]

/-- Settles O34: no instruction but LD I reads or writes I, and every transaction keeps its bound. -/
theorem onlyLoadIndexWritesI : Obligations.OnlyLoadIndexWritesI :=
  ⟨fun _ _ _ h => exec_i_cases h, fun _ _ _ w h => exec_ignores_i h w,
    fun _ h => reaches_induction (P := fun s => s.i.toNat ≤ 0x0FFF) transact_i_le (by decide) h,
    fun _ hs => transact_of_idle hs rfl⟩

/-! ## Pushes (R31) -/

theorem pushAll_concat (as : List Word) (a : Word) (s : State) :
    pushAll (as ++ [a]) s = (pushAll as s).push a := by
  simp [pushAll]

/-- A slot is below the last one or is the last one. -/
theorem lt_or_eq_lastSlot (k : RegIdx) : k.toNat < 15 ∨ k = 0xF#4 := by
  bv_omega

/-- SC after a push. -/
theorem sc_push (s : State) (a : Word) : (s.push a).sc.val = min (s.sc.val + 1) 16 := by
  rw [State.push_eq, State.setSc_sc, pushCount]

/-- A slot after a push. -/
theorem slot_push (s : State) (a : Word) (k : RegIdx) :
    (s.push a).slot k = if k.toNat = min s.sc.val 15 then a else s.slot k := by
  have hslot : (pushSlot s.sc).toNat = min s.sc.val 15 := by
    simp only [pushSlot, BitVec.toNat_ofNat]; omega
  have hk : pushSlot s.sc = k ↔ k.toNat = min s.sc.val 15 := by
    rw [← hslot, eq_comm, BitVec.toNat_inj]
  simp only [State.push_eq, State.slot_setSc, State.slot_setSlot, hk]

/-- Pushes write the slots and SC and nothing else. -/
theorem pushAll_frame (as : List Word) (s : State) :
    ∃ slots n, pushAll as s = { s with stack := slots, sc := n } := by
  induction as using List.reverseRecOn with
  | nil => exact ⟨s.stack, s.sc, rfl⟩
  | append_singleton as a ih =>
    obtain ⟨_, _, h⟩ := ih
    rw [pushAll_concat, State.push_eq, h]
    exact ⟨_, _, rfl⟩

section
variable {s : State} (hs : s.sc.val = 0) (as : List Word)
include hs

/-- SC counts the pushes from empty up to 16. -/
theorem pushAll_sc : (pushAll as s).sc.val = min as.length 16 := by
  induction as using List.reverseRecOn with
  | nil => exact hs
  | append_singleton as a ih =>
    rw [pushAll_concat, sc_push, ih, List.length_append, List.length_singleton]
    omega

/-- The slots below the last hold the first fifteen addresses pushed from empty, in order. -/
theorem slot_pushAll_of_lt {k : RegIdx} (hk : k.toNat < 15) :
    (pushAll as s).slot k = (as[k.toNat]?).getD (s.slot k) := by
  induction as using List.reverseRecOn with
  | nil => rfl
  | append_singleton as a ih =>
    rw [pushAll_concat, slot_push, pushAll_sc hs, ih]
    obtain h | h | h := Nat.lt_trichotomy k.toNat as.length
    · rw [if_neg (by omega), List.getElem?_append_left h]
    · rw [if_pos (by omega), h, List.getElem?_concat_length]; rfl
    · rw [if_neg (by omega), List.getElem?_eq_none (by omega), List.getElem?_eq_none 
        (by rw [List.length_append, List.length_singleton]; omega)]

/-- The last slot holds the newest of the addresses pushed from empty after the first fifteen. -/
theorem slot_pushAll_last :
    (pushAll as s).slot 0xF#4 = ((as.drop 15).getLast?).getD (s.slot 0xF#4) := by
  induction as using List.reverseRecOn with
  | nil => rfl
  | append_singleton as a ih =>
    rw [pushAll_concat, slot_push, pushAll_sc hs, ih]
    simp only [List.getLast?_drop, List.length_append, List.length_singleton, List.getLast?_concat,
      BitVec.toNat_ofNat]
    by_cases h : as.length < 15
    · rw [if_neg (by omega), if_pos (by omega), if_pos (by omega)]
    · rw [if_pos (by omega), if_neg (by omega)]; rfl

/-- From the 16th push on, the last slot holds the newest address. -/
theorem getLast?_eq_slot_pushAll (h : 16 ≤ as.length) :
    as.getLast? = some ((pushAll as s).slot 0xF#4) := by
  have hne : as ≠ [] := List.ne_nil_of_length_pos (by omega)
  rw [slot_pushAll_last hs, List.getLast?_drop, if_neg (by omega), List.getLast?_eq_some_getLast hne]
  rfl

/-- While sixteen addresses at most are pushed from empty, and below the last slot for any number, slot k
holds address k. -/
theorem getElem?_eq_slot_pushAll {k : RegIdx} (hk : k.toNat < as.length)
    (h : k.toNat < 15 ∨ as.length ≤ 16) : as[k.toNat]? = some ((pushAll as s).slot k) := by
  obtain hlt | rfl := lt_or_eq_lastSlot k
  · rw [slot_pushAll_of_lt hs as hlt, List.getElem?_eq_getElem hk]; rfl
  · have hlen : as.length = 16 := Nat.le_antisymm (h.resolve_left (by decide)) hk
    rw [← getLast?_eq_slot_pushAll hs as hlen.ge, List.getLast?_eq_getElem?, hlen]
    rfl

/-- A slot the pushes from empty have not reached keeps its value. -/
theorem slot_pushAll_of_length_le {k : RegIdx} (hk : as.length ≤ k.toNat) :
    (pushAll as s).slot k = s.slot k := by
  obtain hlt | rfl := lt_or_eq_lastSlot k
  · rw [slot_pushAll_of_lt hs as hlt, List.getElem?_eq_none hk]; rfl
  · rw [slot_pushAll_last hs, List.getLast?_drop, if_pos (show as.length ≤ 15 from hk)]
    rfl

end

/-- Settles O40, by the slots below the last, the last slot, and the frame of pushes. -/
theorem pushesFillThenOverwriteTop : Obligations.PushesFillThenOverwriteTop := by
  intro s as hs
  obtain ⟨slots, n, hframe⟩ := pushAll_frame as s
  refine ⟨pushAll_sc hs as, fun k => getElem?_eq_slot_pushAll hs as, getLast?_eq_slot_pushAll hs as,
    fun k => slot_pushAll_of_length_le hs as, ?_⟩
  rw [hframe]
  exact ⟨fun _ _ => rfl, rfl, rfl, fun _ _ => rfl, rfl, rfl, rfl, fun _ => rfl, rfl, rfl, rfl⟩

end Sys2Proof.Proofs
end

section
/-! PROOFS. The decoder of 30_encoding.md: the scan of the handler table (R71). -/

namespace Sys2Proof.Proofs

open Machine

/-! ## The scan of the handler table (R71) -/

/-- An entry matches as R71's equation says. -/
theorem isMatch_eq_true {e : Entry} {op : Word} : e.isMatch op = true ↔ op &&& e.mask = e.pattern :=
  beq_iff_eq

/-- Where the entries before e do not match and e does, the scan stops at e. -/
theorem decodeWord_of_first_match {op : Word} {before after : List Entry} {e : Entry}
    (htable : handlerTable = before ++ e :: after)
    (hbefore : ∀ e' ∈ before, op &&& e'.mask ≠ e'.pattern) (he : op &&& e.mask = e.pattern) :
    decodeWord op = some (e.build op) := by
  have hskip : ∀ e' ∈ before, (!e'.isMatch op) = true := by
    simpa only [Bool.not_eq_true', Bool.eq_false_iff, ne_eq, isMatch_eq_true] using hbefore
  have hfind : handlerTable.find? (·.isMatch op) = some e :=
    List.find?_eq_some_iff_append.mpr ⟨isMatch_eq_true.mpr he, before, after, htable, hskip⟩
  rw [decodeWord, hfind, Option.map_some]

/-- Decoding fails exactly where no entry matches. -/
theorem decodeWord_eq_none_iff {op : Word} :
    decodeWord op = none ↔ ∀ e ∈ handlerTable, op &&& e.mask ≠ e.pattern := by
  rw [decodeWord, Option.map_eq_none_iff, List.find?_eq_none]
  simp only [isMatch_eq_true, ne_eq]

/-- Settles O4, by the two outcomes of the scan and the equations of a STEP on an unknown opcode. -/
theorem decodeTakesFirstMatchingEntry : Obligations.DecodeTakesFirstMatchingEntry := by
  refine ⟨fun op before after e => decodeWord_of_first_match,
    fun op => decodeWord_eq_none_iff.mpr, fun s hs hno => ?_⟩
  have hw : decodeWord s.fetch = none := decodeWord_eq_none_iff.mpr hno
  exact ⟨step_of_unknown hs hw, congrArg Prod.snd (transact_step_of_unknown hs hw)⟩

end Sys2Proof.Proofs
end

section
/-! PROOFS. The fetch and the step of 40_engine.md (R81, R82). -/

namespace Sys2Proof.Proofs

open Machine

/-! ## The fetched word (R82) -/

/-- R46: the first of two bytes is the high one. -/
theorem append_byte_toNat (hi lo : Byte) : (hi ++ lo).toNat = 256 * hi.toNat + lo.toNat := by
  rw [BitVec.toNat_append, ← Nat.shiftLeft_add_eq_or_of_lt lo.isLt, Nat.shiftLeft_eq,
    Nat.mul_comm]

/-- R82: the fetched word in the cells of memory it stands in. -/
theorem fetch_eq_append_read (s : State) :
    s.fetch = s.mem.read (s.pc.toNat % 4096) ++ s.mem.read ((s.pc.toNat + 1) % 4096) := rfl

/-- Settles O8, by the value of two bytes as a word and the two outcomes of a STEP. -/
theorem fetchIsTwoBytesBigEndian : Obligations.FetchIsTwoBytesBigEndian := by
  intro s
  refine ⟨?word, fun i hs hw => step_of_decode hs hw,
    fun hs hw => congrArg Prod.snd (transact_step_of_unknown hs hw)⟩
  case word => rw [fetch_eq_append_read, append_byte_toNat]

/-! ## The two outcomes of a STEP (R81) -/

/-- R81: a STEP on a word that decodes runs its instruction, which gives the next state, and the
transaction answers OK with that state. -/
theorem step_transact_of_decode {s : State} (hs : s.fsm = .idle) {i : Instr}
    (hw : decodeWord s.fetch = some i) :
    step s = exec i (s.setIr s.fetch) ∧
      ∃ t, exec i (s.setIr s.fetch) = .next t ∧ s.transact .step = (.ok, t) := by
  have hstep := step_of_decode hs hw
  obtain ⟨t, hexec⟩ := exec_isNext i (s.setIr s.fetch)
  exact ⟨hstep, t, hexec, transact_step_of_next hs (hstep.trans hexec)⟩

/-- Settles O7, for the fetched word in the place of its two bytes. -/
theorem stepRunsDecodedInstruction : Obligations.StepRunsDecodedInstruction := by
  rintro s _ _ hs rfl rfl
  rw [← fetch_eq_append_read]
  exact ⟨fun i hw => step_transact_of_decode hs hw,
    fun hw => ⟨step_of_unknown hs hw, transact_step_of_unknown hs hw⟩⟩

end Sys2Proof.Proofs
end

section
/-! PROOFS. The control transfers of 41_control_flow.md: jumps (R102, R110), CALL (R103) and the skips on a
byte (R105, R106). -/

namespace Sys2Proof.Proofs

open Machine Claims

/-! ## Encodings fixed by the class nibble (R72) -/

@[simp] theorem bits11to0_nibbles (c x y n : BitVec 4) :
    bits11to0 (nibbles c x y n) = x ++ (y ++ n : BitVec 8) := fieldNNN_nibbles c x y n

@[simp] theorem bits11to8_nibbles (c x y n : BitVec 4) : bits11to8 (nibbles c x y n) = x :=
  fieldX_nibbles c x y n

@[simp] theorem bits7to0_nibbles (c x y n : BitVec 4) : bits7to0 (nibbles c x y n) = y ++ n :=
  fieldKK_nibbles c x y n

/-- A row of R72 that fixes the class nibble k alone (formats A and XK) is the encoding of i where every
word of class k decodes to i. -/
theorem decodesAs_of_class {k : BitVec 4} {i : Word → Instr}
    (h : ∀ x y n, decodeNibbles k x y n = some (i (nibbles k x y n))) :
    DecodesAs 0xF000#16 (nibbles k 0x0#4 0x0#4 0x0#4) i := by
  intro op hop
  obtain ⟨c, x, y, n, rfl⟩ := nibbles_surj op
  have hc : c = k := by simpa only [match_class, decide_eq_true_eq] using beq_iff_eq.mpr hop
  rw [decodeWord_nibbles, hc, h]

/-! ## Jumps (R102, R110) -/

/-- R102: a jump to PC's own value is no change. -/
theorem setPc_zext16_of_toNat_eq {s : State} {nnn : Addr} (h : s.pc.toNat = nnn.toNat) :
    s.setPc (zext16 nnn) = s := by
  have hpc : zext16 nnn = s.pc := BitVec.eq_of_toNat_eq (by rw [zext16_toNat, h])
  rw [hpc]
  rfl

/-- Settles O14, by the class-1 encoding and the target as a number. -/
theorem jumpSetsPc : Obligations.JumpSetsPc :=
  ⟨decodesAs_of_class (k := 0x1#4) (by simp [decodeNibbles]),
    fun nnn s => ⟨_, exec_jp s nnn, zext16_toNat nnn, setPc_zext16_of_toNat_eq⟩⟩

/-- Settles O19, by the class-B encoding and the target as a number. -/
theorem indexedJumpAddsV0 : Obligations.IndexedJumpAddsV0 :=
  ⟨decodesAs_of_class (k := 0xB#4) (by simp [decodeNibbles]),
    fun nnn s => ⟨_, exec_jpV0 s nnn, operandIndexed_toNat s nnn⟩⟩

/-! ## CALL (R103, R31) -/

/-- CALL is a push of the return address and a jump. -/
theorem exec_call_eq_push (nnn : Addr) (s : State) :
    exec (.call nnn) s = .next ((s.push (s.pc + 2#16)).setPc (zext16 nnn)) := rfl

section
variable {s : State} {k : RegIdx} (hk : k.toNat = min s.sc.val 15) (a : Word)
include hk

/-- The slot a push writes holds the address pushed. -/
theorem slot_push_same : (s.push a).slot k = a := by
  rw [slot_push, if_pos hk]

/-- Every slot but the one a push writes keeps its value. -/
theorem slot_push_ne {j : RegIdx} (hj : j ≠ k) : (s.push a).slot j = s.slot j := by
  have hne : j.toNat ≠ min s.sc.val 15 := fun h => hj (BitVec.eq_of_toNat_eq (h.trans hk.symm))
  rw [slot_push, if_neg hne]

end

/-- Settles O15: with room the push writes slot SC, on a full stack slot 15. -/
theorem callPushesReturnAddress : Obligations.CallPushesReturnAddress := by
  refine ⟨decodesAs_of_class (k := 0x2#4) (by simp [decodeNibbles]), fun nnn s =>
    ⟨_, exec_call_eq_push nnn s, zext16_toNat nnn, fun k hsc => ?room, fun hsc => ?full⟩⟩
  case room =>
    have hk : k.toNat = min s.sc.val 15 := by omega
    refine ⟨?_, ?_, fun j hj => slot_push_ne hk _ hj⟩
    · rw [State.slot_setPc, slot_push_same hk, pc_add_two_toNat]
    · rw [State.setPc_sc, sc_push]; omega
  case full =>
    have hk : (0xF#4).toNat = min s.sc.val 15 := by rw [hsc]; rfl
    refine ⟨?_, Fin.ext ?_, fun j hj => slot_push_ne hk _ hj⟩
    · rw [State.slot_setPc, slot_push_same hk, pc_add_two_toNat]
    · rw [State.setPc_sc, sc_push, hsc]; rfl

/-! ## Skips on a byte (R104 to R106) -/

/-- R104: where the condition holds, a skip raises PC by 4. -/
theorem pcRises_skipIf_of_true {c : Bool} (hc : c = true) (s : State) : PcRises 4 s (s.skipIf c) := by
  rw [hc]; exact pc_add_four_toNat s

/-- R104: where the condition fails, a skip raises PC by 2. -/
theorem pcRises_skipIf_of_false {c : Bool} (hc : c = false) (s : State) : PcRises 2 s (s.skipIf c) := by
  rw [hc]; exact pc_add_two_toNat s

/-- Settles O16, by the class-3 encoding and the skip on equality. -/
theorem skipIfRegisterEqualsByte : Obligations.SkipIfRegisterEqualsByte :=
  ⟨decodesAs_of_class (k := 0x3#4) (by simp [decodeNibbles]),
    fun x kk s => ⟨s.skipIf (s.getV x == kk), rfl,
      fun h => pcRises_skipIf_of_true (beq_iff_eq.mpr h) s,
      fun h => pcRises_skipIf_of_false (beq_eq_false_iff_ne.mpr h) s⟩⟩

/-- Settles O17, by the class-4 encoding and the skip on difference. -/
theorem skipIfRegisterDiffersFromByte : Obligations.SkipIfRegisterDiffersFromByte :=
  ⟨decodesAs_of_class (k := 0x4#4) (by simp [decodeNibbles]),
    fun x kk s => ⟨s.skipIf (s.getV x != kk), rfl,
      fun h => pcRises_skipIf_of_true (bne_iff_ne.mpr h) s,
      fun h => pcRises_skipIf_of_false (bne_eq_false_iff_eq.mpr h) s⟩⟩

end Sys2Proof.Proofs
end

section
/-! PROOFS. The ALU instructions of 42_alu.md: the loads and the sum that write one register (R112 to R114)
and LD I (R123). -/

namespace Sys2Proof.Proofs

open Machine Claims

/-! ## Encodings fixed by the class and the last nibble (R72) -/

@[simp] theorem bits7to4_nibbles (c x y n : BitVec 4) : bits7to4 (nibbles c x y n) = y :=
  fieldY_nibbles c x y n

/-- A row of R72 that fixes the class nibble k and the last nibble j (format XY) is the encoding of i where
every word of those two nibbles decodes to i. -/
theorem decodesAs_of_class_low {k j : BitVec 4} {i : Word → Instr}
    (h : ∀ x y, decodeNibbles k x y j = some (i (nibbles k x y j))) :
    DecodesAs 0xF00F#16 (nibbles k 0x0#4 0x0#4 j) i := by
  intro op hop
  obtain ⟨c, x, y, n, rfl⟩ := nibbles_surj op
  have hcn : c = k ∧ n = j := by
    simpa only [match_class_low, decide_eq_true_eq] using beq_iff_eq.mpr hop
  obtain ⟨rfl, rfl⟩ := hcn
  rw [decodeWord_nibbles, h]

/-! ## Writing one register and moving on (R112 to R114) -/

section
variable (s : State) (x : RegIdx) (r : Byte)

/-- Writing a register other than VF, and PC with it, leaves VF. -/
theorem getV_flag_setV_setPc (w : Word) (hx : x ≠ 0xF#4) :
    ((s.setV x r).setPc w).getV 0xF#4 = s.getV 0xF#4 := by
  rw [State.getV_setPc, State.getV_setV_ne s r hx]

/-- Writing to a register what it holds is no change. -/
theorem setV_getV_same : s.setV x (s.getV x) = s := by
  rw [State.setV, State.getV, Vector.set_getElem_self]

end

/-- Settles O21, by the class-6 encoding and the write of Vx. -/
theorem loadByteIntoRegister : Obligations.LoadByteIntoRegister :=
  ⟨decodesAs_of_class (k := 0x6#4) (by simp [decodeNibbles]),
    fun x kk s => ⟨_, exec_ldByte s x kk, s.getV_setV_same x kk, getV_flag_setV_setPc s x kk _,
      pc_add_two_toNat s⟩⟩

/-- Settles O22, by the class-7 encoding and the sum as a number. -/
theorem addByteToRegister : Obligations.AddByteToRegister := by
  refine ⟨decodesAs_of_class (k := 0x7#4) (by simp [decodeNibbles]),
    fun x kk s => ⟨_, exec_addByte s x kk, ?sum, getV_flag_setV_setPc s x _ _, pc_add_two_toNat s⟩⟩
  case sum => rw [State.getV_setPc, State.getV_setV_same, addByte_toNat]

/-- Settles O23: where x = y, Vx is written with what it holds. -/
theorem copyRegister : Obligations.CopyRegister := by
  refine ⟨decodesAs_of_class_low (k := 0x8#4) (j := 0x0#4) (by simp [decodeNibbles]),
    fun x y s => ⟨_, exec_ldReg s x y, s.getV_setV_same x _, getV_flag_setV_setPc s x _ _,
      pc_add_two_toNat s, ?self⟩⟩
  case self =>
    rintro rfl
    rw [setV_getV_same]
    rfl

/-! ## LD I (R123) -/

/-- Of an instruction run again with I replaced: it carries the replacement along, or, being LD I, writes the
I it wrote the first time. -/
theorem exec_setI_i {i : Instr} {s t u : State} {w : Word} (ht : exec i s = .next t)
    (hu : exec i (s.setI w) = .next u) : u.i = w ∨ u.i = t.i := by
  obtain ⟨nnn, rfl, -⟩ | ⟨-, kept⟩ := exec_i_cases hu
  · rw [exec_ldI_setI, ht] at hu
    exact .inr (congrArg State.i (Host.Outcome.next.inj hu.symm))
  · exact .inl kept

/-- Settles O31, by the class-A encoding, the write of I, and no instruction reading I (R25). -/
theorem loadIndexRegister : Obligations.LoadIndexRegister := by
  refine ⟨decodesAs_of_class (k := 0xA#4) (by simp [decodeNibbles]),
    fun nnn s => ⟨_, exec_ldI s nnn, zext16_toNat nnn, pc_add_two_toNat s⟩, fun i s w => ?unread⟩
  case unread =>
    obtain ⟨t, ht⟩ := exec_isNext i s
    obtain ⟨u, hu, heq⟩ := exec_ignores_i ht w
    exact ⟨t, u, ht, hu, heq, exec_setI_i ht hu⟩

end Sys2Proof.Proofs
end

section
/-! PROOFS. The display instruction of 43_display.md: CLS (R135). -/

namespace Sys2Proof.Proofs

open Machine Claims

/-! ## Encodings fixed by the whole word (R72) -/

/-- A row of R72 that fixes every bit (format Z) is the encoding of i where its one word decodes to i. -/
theorem decodesAs_of_word {w : Word} {i : Word → Instr} (h : decodeWord w = some (i w)) :
    DecodesAs 0xFFFF#16 w i := by
  intro op hop
  have hw : op = w := BitVec.and_allOnes.symm.trans hop
  rw [hw, h]

/-! ## Clearing the plane (R131, R135) -/

/-- A plane all of whose pixels are 0 is the cleared plane. -/
theorem eq_fbClear_of_pixels {f : Framebuffer} (h : ∀ x y, fbGet f x y = false) : f = fbClear :=
  fb_ext fun x y => (h x y).trans (fbGet_fbClear x y).symm

/-- Clearing a plane already all 0 is no change. -/
theorem setFb_fbClear_of_pixels {s : State} (h : ∀ x y, fbGet s.fb x y = false) :
    s.setFb fbClear = s := by
  rw [← eq_fbClear_of_pixels h]
  rfl

/-- Settles O33, by the whole-word encoding, the cleared plane's pixels, and the frame of writing the plane
and PC. -/
theorem clearScreen : Obligations.ClearScreen := by
  refine ⟨decodesAs_of_word (decodeWord_nibbles 0x0#4 0x0#4 0xE#4 0x0#4), fun s =>
    ⟨_, exec_cls s, fbGet_fbClear, pc_add_two_toNat s, fun r _ => ?regs, rfl, rfl, rfl,
      ⟨rfl, fun k => ?slots⟩, fun a => ?memory, fun hclear => ?clear⟩⟩
  case regs => rw [State.getV_setPc, State.getV_setFb]
  case slots => rw [State.slot_setPc, State.slot_setFb]
  case memory => rw [State.byteAt_setPc, State.byteAt_setFb]
  case clear =>
    rw [setFb_fbClear_of_pixels hclear]
    rfl

end Sys2Proof.Proofs
end

section
/-! PROOFS. The encoding of 30_encoding.md: the decoder and the encoder are inverse (R64 to R72), the rows of
the handler table exclude one another (R74), and the unknown opcodes are those of R73. -/

namespace Sys2Proof.Proofs

open Machine

/-! ## Decoding an encoded instruction (R64, R66) -/

/-- A byte is its two nibbles. -/
theorem byte_nibbles (kk : Byte) : ∃ y n : BitVec 4, kk = y ++ n := append_surj (w := 4) kk

/-- An address is its three nibbles. -/
theorem addr_nibbles (nnn : Addr) : ∃ x y n : BitVec 4, nnn = x ++ (y ++ n : BitVec 8) := by
  obtain ⟨x, kk, rfl⟩ := append_surj (w := 8) nnn
  obtain ⟨y, n, rfl⟩ := byte_nibbles kk
  exact ⟨x, y, n, rfl⟩

/-- Format A decodes where every word of its class does. -/
theorem decodeWord_encodeA {c : BitVec 4} {i : Addr → Instr}
    (h : ∀ x y n, decodeNibbles c x y n = some (i (x ++ (y ++ n : BitVec 8)))) (nnn : Addr) :
    decodeWord (encodeA c nnn) = some (i nnn) := by
  obtain ⟨x, y, n, rfl⟩ := addr_nibbles nnn
  exact (decodeWord_nibbles c x y n).trans (h x y n)

/-- Format XK decodes where every word of its class does. -/
theorem decodeWord_encodeXK {c : BitVec 4} {i : RegIdx → Byte → Instr}
    (h : ∀ x y n, decodeNibbles c x y n = some (i x (y ++ n))) (x : RegIdx) (kk : Byte) :
    decodeWord (encodeXK c x kk) = some (i x kk) := by
  obtain ⟨y, n, rfl⟩ := byte_nibbles kk
  exact (decodeWord_nibbles c x y n).trans (h x y n)

/-- Formats XY and X are written by nibbles. -/
theorem decodeWord_encodeXY (c x y n : BitVec 4) :
    decodeWord (encodeXY c x y n) = decodeNibbles c x y n := decodeWord_nibbles c x y n

/-- The word of an instruction decodes to it. -/
theorem decodeWord_encode (i : Instr) : decodeWord (encode i) = some i := by
  cases i with
  | cls => exact decodeWord_nibbles 0x0#4 0x0#4 0xE#4 0x0#4
  | ret => exact decodeWord_nibbles 0x0#4 0x0#4 0xE#4 0xE#4
  | jp | call | ldI | jpV0 => exact decodeWord_encodeA (by simp [decodeNibbles]) _
  | seByte | sneByte | ldByte | addByte | rnd => exact decodeWord_encodeXK (by simp [decodeNibbles]) _ _
  | _ => exact decodeWord_encodeXY _ _ _ _

/-- Settles O2: the two bytes give the word back, and the word decodes to the instruction. -/
theorem decodeOfEncode : Obligations.DecodeOfEncode := by
  intro i rest _
  rw [encodeBytes, decode_bytesOfWord, decodeWord_encode]

/-! ## Encoding a decoded instruction (R66, R72) -/

section
variable {op : Word} {k : BitVec 4}

/-- A word of class k is its format A encoding. -/
theorem encodeA_fieldNNN (h : op &&& 0xF000#16 = nibbles k 0x0#4 0x0#4 0x0#4) :
    encodeA k (fieldNNN op) = op := by
  obtain ⟨c, x, y, n, rfl⟩ := nibbles_surj op
  have hc : c = k := by simpa only [match_class, decide_eq_true_eq] using beq_iff_eq.mpr h
  rw [fieldNNN_nibbles, hc]
  rfl

/-- A word of class k is its format XK encoding. -/
theorem encodeXK_fieldX_fieldKK (h : op &&& 0xF000#16 = nibbles k 0x0#4 0x0#4 0x0#4) :
    encodeXK k (fieldX op) (fieldKK op) = op := by
  obtain ⟨c, x, y, n, rfl⟩ := nibbles_surj op
  have hc : c = k := by simpa only [match_class, decide_eq_true_eq] using beq_iff_eq.mpr h
  rw [fieldX_nibbles, fieldKK_nibbles, hc]
  rfl

/-- A word of class k and last nibble j is its format XY encoding. -/
theorem encodeXY_fieldX_fieldY {j : BitVec 4} (h : op &&& 0xF00F#16 = nibbles k 0x0#4 0x0#4 j) :
    encodeXY k (fieldX op) (fieldY op) j = op := by
  obtain ⟨c, x, y, n, rfl⟩ := nibbles_surj op
  have hcn : c = k ∧ n = j := by simpa only [match_class_low, decide_eq_true_eq] using beq_iff_eq.mpr h
  obtain ⟨rfl, rfl⟩ := hcn
  rw [fieldX_nibbles, fieldY_nibbles]
  rfl

/-- A word that a pattern fixes whole is the pattern. -/
theorem eq_of_and_ones {w : Word} (h : op &&& 0xFFFF#16 = w) : w = op :=
  h.symm.trans BitVec.and_allOnes

end

/-- What an entry builds from a word it matches encodes to that word, entry by entry by its format. -/
theorem encode_build (op : Word) :
    ∀ e ∈ handlerTable, op &&& e.mask = e.pattern → encode (e.build op) = op := by
  simp only [handlerTable, controlEntries, aluEntries, lastEntries, List.cons_append, List.nil_append,
    List.forall_mem_cons]
  exact ⟨eq_of_and_ones, eq_of_and_ones, encodeA_fieldNNN (k := 0x1#4), encodeA_fieldNNN (k := 0x2#4),
    encodeXK_fieldX_fieldKK (k := 0x3#4), encodeXK_fieldX_fieldKK (k := 0x4#4),
    encodeXY_fieldX_fieldY (k := 0x5#4) (j := 0x0#4), encodeXK_fieldX_fieldKK (k := 0x6#4),
    encodeXK_fieldX_fieldKK (k := 0x7#4), encodeXY_fieldX_fieldY (k := 0x8#4) (j := 0x0#4),
    encodeXY_fieldX_fieldY (k := 0x8#4) (j := 0x1#4), encodeXY_fieldX_fieldY (k := 0x8#4) (j := 0x2#4),
    encodeXY_fieldX_fieldY (k := 0x8#4) (j := 0x3#4), encodeXY_fieldX_fieldY (k := 0x8#4) (j := 0x4#4),
    encodeXY_fieldX_fieldY (k := 0x8#4) (j := 0x5#4), encodeXY_fieldX_fieldY (k := 0x8#4) (j := 0x6#4),
    encodeXY_fieldX_fieldY (k := 0x8#4) (j := 0x7#4), encodeXY_fieldX_fieldY (k := 0x8#4) (j := 0xE#4),
    encodeXY_fieldX_fieldY (k := 0x9#4) (j := 0x0#4), encodeA_fieldNNN (k := 0xA#4),
    encodeA_fieldNNN (k := 0xB#4), encodeXK_fieldX_fieldKK (k := 0xC#4), nofun⟩

/-- A word that decodes was built by an entry that matches it. -/
theorem exists_entry_of_decodeWord {op : Word} {i : Instr} (h : decodeWord op = some i) :
    ∃ e ∈ handlerTable, op &&& e.mask = e.pattern ∧ e.build op = i := by
  obtain ⟨e, hfind, hbuild⟩ := Option.map_eq_some_iff.mp h
  have hmatch := List.find?_some hfind
  exact ⟨e, List.mem_of_find?_eq_some hfind, isMatch_eq_true.mp hmatch, hbuild⟩

/-- Settles O3, by the entry that built the instruction. -/
theorem encodeOfDecode : Obligations.EncodeOfDecode := by
  intro op i h
  obtain ⟨e, he, hmatch, rfl⟩ := exists_entry_of_decodeWord h
  exact encode_build op e he hmatch

/-! ## Exclusion and the unknown opcodes (R73, R74) -/

/-- Two entries that match one opcode agree on the bits that both fix. -/
theorem pattern_and_mask_of_match {op : Word} {e e' : Entry} (h : op &&& e.mask = e.pattern)
    (h' : op &&& e'.mask = e'.pattern) : e.pattern &&& e'.mask = e'.pattern &&& e.mask := by
  rw [← h, ← h', BitVec.and_assoc, BitVec.and_comm e.mask, BitVec.and_assoc]

/-- Any two entries of the table differ on a bit that both fix. -/
theorem handlerTable_pairwise :
    handlerTable.Pairwise fun e e' => e.pattern &&& e'.mask ≠ e'.pattern &&& e.mask := by decide

/-- An entry that stands before another one of the table matches no opcode that the other matches. -/
theorem not_match_both {op : Word} {j k : Nat} {e e' : Entry} (hj : handlerTable[j]? = some e)
    (hk : handlerTable[k]? = some e') (hlt : j < k) (h : op &&& e.mask = e.pattern)
    (h' : op &&& e'.mask = e'.pattern) : False := by
  obtain ⟨hj', rfl⟩ := List.getElem?_eq_some_iff.mp hj
  obtain ⟨hk', rfl⟩ := List.getElem?_eq_some_iff.mp hk
  exact List.pairwise_iff_getElem.mp handlerTable_pairwise j k hj' hk' hlt
    (pattern_and_mask_of_match h h')

/-- Settles O5: of two different places one stands before the other. -/
theorem atMostOneEntryMatches : Obligations.AtMostOneEntryMatches := by
  refine ⟨rfl, fun op j k e e' hj hk h h' => ?_⟩
  obtain hlt | heq | hgt := Nat.lt_trichotomy j k
  · exact (not_match_both hj hk hlt h h').elim
  · exact heq
  · exact (not_match_both hk hj hgt h' h).elim

/-- The words that decode to nothing, by their nibbles as numbers. -/
theorem decodeNibbles_eq_none_iff (c x y n : BitVec 4) :
    decodeNibbles c x y n = none ↔
      c.toNat = 0x0 ∧ ¬(x.toNat = 0x0 ∧ y.toNat = 0xE ∧ (n.toNat = 0x0 ∨ n.toNat = 0xE)) ∨
      c.toNat = 0x5 ∧ n.toNat ≠ 0x0 ∨
      c.toNat = 0x8 ∧ n.toNat ∈ [0x8, 0x9, 0xA, 0xB, 0xC, 0xD, 0xF] ∨
      c.toNat = 0x9 ∧ n.toNat ≠ 0x0 ∨ 0xD ≤ c.toNat := by
  have hc := c.isLt
  have hn := n.isLt
  simp only [decodeNibbles, ite_eq_iff, reduceCtorEq, and_false, and_true, false_or, or_false,
    ← BitVec.toNat_inj, BitVec.toNat_ofNat, List.mem_cons, List.not_mem_nil]
  omega

/-- Settles O6: the number of a word by its nibbles, and the nibbles that decode to nothing. -/
theorem unknownOpcodesAreExactly : Obligations.UnknownOpcodesAreExactly := by
  intro op
  obtain ⟨c, x, y, n, rfl⟩ := nibbles_surj op
  have hc := c.isLt
  have hx := x.isLt
  have hy := y.isLt
  have hn := n.isLt
  rw [decodeWord_nibbles, decodeNibbles_eq_none_iff, nibbles_toNat]
  simp only [List.mem_cons, List.not_mem_nil, or_false]
  omega

end Sys2Proof.Proofs
end

section
/-! PROOFS. What an instruction can write and what it depends on (R14, R22, R23, R29, R35, R41, R88): the
frame of `exec`, once for all instructions. -/

namespace Sys2Proof.Proofs

open Machine Claims

/-! ## What no instruction writes -/

section
variable {i : Instr} {s t : State} (h : exec i s = .next t)
include h

/-- An instruction writes V registers, I, PC, the stack, the plane and the random source at most. -/
theorem exec_writes : ∃ v idx pc stack sc fb rnd,
    t = { s with v := v, i := idx, pc := pc, stack := stack, sc := sc, fb := fb, rnd := rnd } := by
  cases i with
  | ret | call | seByte | sneByte | seReg | sneReg =>
    simp only [exec_ret, exec_call, exec_seByte, exec_sneByte, exec_seReg, exec_sneReg] at h
    cases h; exact ⟨_, _, _, _, _, _, _, rfl⟩
  | _ => cases h; exact ⟨_, _, _, _, _, _, _, rfl⟩

theorem exec_mem : t.mem = s.mem := by
  obtain ⟨_, _, _, _, _, _, _, rfl⟩ := exec_writes h; rfl

theorem exec_fsm : t.fsm = s.fsm := by
  obtain ⟨_, _, _, _, _, _, _, rfl⟩ := exec_writes h; rfl

theorem exec_popMode : t.popMode = s.popMode := by
  obtain ⟨_, _, _, _, _, _, _, rfl⟩ := exec_writes h; rfl

/-- No instruction changes the timers, memory, IR, FSM or EMPTY_POP_MODE. -/
theorem exec_othersSame : OthersSame s t := by
  obtain ⟨_, _, _, _, _, _, _, rfl⟩ := exec_writes h
  exact ⟨rfl, rfl, fun _ => rfl, rfl, rfl, rfl⟩

/-- R35: no instruction but CLS writes the plane. -/
theorem exec_fb_of_ne_cls (hi : i ≠ .cls) : t.fb = s.fb := by
  cases i with
  | cls => exact absurd rfl hi
  | ret | call | seByte | sneByte | seReg | sneReg =>
    simp only [exec_ret, exec_call, exec_seByte, exec_sneByte, exec_seReg, exec_sneReg] at h
    cases h; rfl
  | _ => cases h; rfl

/-! ## What an instruction does not depend on -/

/-- An instruction runs alike whatever memory, the timers, IR and FSM hold, and carries them along. -/
theorem exec_setHidden (m : Memory) (a b : Byte) (w : Word) (f : Fsm) :
    exec i { s with mem := m, dt := a, st := b, ir := w, fsm := f } =
      .next { t with mem := m, dt := a, st := b, ir := w, fsm := f } := by
  cases i with
  | ret | call | seByte | sneByte | seReg | sneReg =>
    simp only [exec_ret, exec_call, exec_seByte, exec_sneByte, exec_seReg, exec_sneReg] at h ⊢
    cases h; rfl
  | _ => cases h; rfl

/-- An instruction runs alike in every state of FSM, and carries it along. -/
theorem exec_setFsm (f : Fsm) : exec i (s.setFsm f) = .next (t.setFsm f) := by
  obtain ⟨_, _, _, _, _, _, _, rfl⟩ := exec_writes h
  exact exec_setHidden h s.mem s.dt s.st s.ir f

/-- R29: an instruction other than CALL and RET runs alike whatever the stack holds and under either
EMPTY_POP_MODE, and carries them along. -/
theorem exec_setStack (hret : i ≠ .ret) (hcall : ∀ nnn, i ≠ .call nnn) (stack : Vector Word 16)
    (n : Fin 17) (mode : Config.EmptyPopMode) :
    exec i { s with stack := stack, sc := n, popMode := mode } =
      .next { t with stack := stack, sc := n, popMode := mode } := by
  cases i with
  | ret => exact absurd rfl hret
  | call nnn => exact absurd rfl (hcall nnn)
  | seByte | sneByte | seReg | sneReg =>
    simp only [exec_seByte, exec_sneByte, exec_seReg, exec_sneReg] at h ⊢
    cases h; rfl
  | _ => cases h; rfl

/-- R88: an instruction other than RND runs alike whatever the random source holds, and carries it along. -/
theorem exec_setRnd (hi : asksRandom i = false) (r : RandomSource) :
    exec i (s.setRnd r) = .next (t.setRnd r) := by
  cases i with
  | rnd => cases hi
  | ret | call | seByte | sneByte | seReg | sneReg =>
    simp only [exec_ret, exec_call, exec_seByte, exec_sneByte, exec_seReg, exec_sneReg] at h ⊢
    cases h; rfl
  | _ => cases h; rfl

end

/-! ## What the instructions do to the V registers (R22 to R24) -/

/-- R23: a flag is 0x00 or 0x01. -/
theorem flagByte_zero_or_one (c : Bool) : flagByte c = 0x00#8 ∨ flagByte c = 0x01#8 := by
  cases c
  · exact .inl rfl
  · exact .inr rfl

/-- Bit 0 of a byte, the flag of a shift, is 0x00 or 0x01. -/
theorem and_one_zero_or_one (a : Byte) : a &&& 0x01#8 = 0x00#8 ∨ a &&& 0x01#8 = 0x01#8 := by
  have h := and_one_toNat a
  bv_omega

/-- An instruction leaves the V registers, or writes its destination alone, or writes its destination and a
flag of 0x00 or 0x01 to VF, in either order. -/
theorem exec_v_cases {i : Instr} {s t : State} (h : exec i s = .next t) :
    (writesFlag i = false ∧ t.v = s.v) ∨
    (∃ x r, destination i = some x ∧ writesFlag i = false ∧ t.v = (s.setV x r).v) ∨
    ∃ x r flag, destination i = some x ∧ writesFlag i = true ∧ (flag = 0x00#8 ∨ flag = 0x01#8) ∧
      (t.v = ((s.setV x r).setV regVF flag).v ∨ t.v = ((s.setV regVF flag).setV x r).v) := by
  cases i with
  | ret | call | seByte | sneByte | seReg | sneReg =>
    simp only [exec_ret, exec_call, exec_seByte, exec_sneByte, exec_seReg, exec_sneReg] at h
    cases h; exact .inl ⟨rfl, rfl⟩
  | cls | jp | jpV0 | ldI => cases h; exact .inl ⟨rfl, rfl⟩
  | ldByte | addByte | ldReg | orReg | andReg | xorReg | rnd =>
    cases h; exact .inr (.inl ⟨_, _, rfl, rfl, rfl⟩)
  | addReg => cases h; exact .inr (.inr ⟨_, _, _, rfl, rfl, flagByte_zero_or_one _, .inl rfl⟩)
  | subReg | subnReg => cases h; exact .inr (.inr ⟨_, _, _, rfl, rfl, flagByte_zero_or_one _, .inr rfl⟩)
  | shr | shl => cases h; exact .inr (.inr ⟨_, _, _, rfl, rfl, and_one_zero_or_one _, .inr rfl⟩)

/-- Equal register files read alike. -/
theorem getV_congr {s t : State} (h : t.v = s.v) (r : RegIdx) : t.getV r = s.getV r := by
  rw [State.getV, State.getV]
  simp only [h]

/-- Writes of two V registers leave every third. -/
theorem getV_setV_setV_ne (s : State) {x y z : RegIdx} (r q : Byte) (hx : x ≠ z) (hy : y ≠ z) :
    ((s.setV x r).setV y q).getV z = s.getV z := by
  rw [State.getV_setV_ne _ _ hy, State.getV_setV_ne _ _ hx]

/-- A register an instruction changes is its destination, or the VF of an instruction that writes a flag. -/
theorem exec_getV_of_changed {i : Instr} {s t : State} {r : RegIdx} (h : exec i s = .next t)
    (hr : t.getV r ≠ s.getV r) : destination i = some r ∨ (writesFlag i = true ∧ r = 0xF#4) := by
  by_contra hno
  obtain ⟨hdest, hflag⟩ := not_or.mp hno
  refine hr ?_
  obtain ⟨-, hv⟩ | ⟨x, _, hx, -, hv⟩ | ⟨x, _, _, hx, hw, -, hv⟩ := exec_v_cases h
  · exact getV_congr hv r
  · have hxr : x ≠ r := by rintro rfl; exact hdest hx
    rw [getV_congr hv, State.getV_setV_ne _ _ hxr]
  · have hxr : x ≠ r := by rintro rfl; exact hdest hx
    have hfr : regVF ≠ r := by rintro rfl; exact hflag ⟨hw, rfl⟩
    obtain hv | hv := hv
    · rw [getV_congr hv, getV_setV_setV_ne s _ _ hxr hfr]
    · rw [getV_congr hv, getV_setV_setV_ne s _ _ hfr hxr]

/-- After an instruction that writes a flag, VF holds 0x00 or 0x01 unless it is the destination. -/
theorem exec_getV_flag {i : Instr} {s t : State} (h : exec i s = .next t) (hw : writesFlag i = true)
    (hdest : destination i ≠ some 0xF#4) : t.getV 0xF#4 = 0x00#8 ∨ t.getV 0xF#4 = 0x01#8 := by
  obtain ⟨hno, -⟩ | ⟨_, _, -, hno, -⟩ | ⟨x, _, flag, hx, -, hflag, hv⟩ := exec_v_cases h
  · exact absurd hw (by simp [hno])
  · exact absurd hw (by simp [hno])
  · have hxf : x ≠ 0xF#4 := by rintro rfl; exact hdest hx
    have hvf : t.getV 0xF#4 = flag := by
      obtain hv | hv := hv
      · rw [getV_congr hv, State.getV_setV_same]
      · rw [getV_congr hv, State.getV_setV_ne _ _ hxf, State.getV_setV_same]
    rwa [hvf]

/-- Settles O38, by the three ways an instruction treats the V registers. -/
theorem registersWrittenOnlyAsNamed : Obligations.RegistersWrittenOnlyAsNamed :=
  fun _ _ _ _ h => ⟨exec_getV_of_changed h, exec_getV_flag h⟩

/-! ## Noninterference (R28, R29, R41, R88) -/

/-- Settles O35: memory and the timers are carried along, and IR and FSM stay. -/
theorem instructionsIgnoreMemoryAndTimers : Obligations.InstructionsIgnoreMemoryAndTimers := by
  intro i s t m a b h
  obtain ⟨_, _, _, _, _, _, _, rfl⟩ := exec_writes h
  exact exec_setHidden h m a b s.ir s.fsm

/-- Settles O37: the stack is carried along, and so the one it started with is left. -/
theorem onlyCallAndReturnTouchStack : Obligations.OnlyCallAndReturnTouchStack := by
  intro i s t hret hcall h
  have carried : Host.Outcome.next t =
      .next { t with stack := s.stack, sc := s.sc, popMode := s.popMode } :=
    h.symm.trans (exec_setStack h hret hcall s.stack s.sc s.popMode)
  have heq := Host.Outcome.next.inj carried
  exact ⟨(congrArg State.sc heq :), (congrArg State.stack heq :), exec_setStack h hret hcall⟩

/-- Settles O39: RND counts one request, and any other instruction carries the source along. -/
theorem randomByteOnlyForRnd : Obligations.RandomByteOnlyForRnd := by
  refine fun i s t h => ⟨fun hi => ?asks, fun hi => exec_setRnd h hi, fun hi => ?kept⟩
  case asks =>
    cases i with
    | rnd x kk => cases h; rfl
    | _ => cases hi
  case kept =>
    have carried : Host.Outcome.next t = .next (t.setRnd s.rnd) := h.symm.trans (exec_setRnd h hi s.rnd)
    exact (congrArg State.rnd (Host.Outcome.next.inj carried) :)

/-! ## The plane (R35) -/

/-- Settles O36: of the ways a transaction can change the state, the others leave the plane. -/
theorem onlyClsDrawResetChangePixels : Obligations.OnlyClsDrawResetChangePixels := by
  intro r s x y hxy
  have hfb : (s.transact r).2.fb ≠ s.fb := fun heq => hxy (by rw [heq])
  obtain unchanged | ⟨reset, -⟩ | ⟨-, ⟨_, _, -, -, load⟩ | ⟨i, hr, hi, ran⟩ | ⟨-, -, failed⟩ |
    ⟨timer, _, -, wrote⟩ | ⟨a, b, rows, drew, -⟩⟩ := transact_cases r s
  · exact absurd (congrArg State.fb unchanged) hfb
  · exact .inl reset
  · exact absurd (congrArg State.fb load) hfb
  · refine .inr (.inr ⟨hr, ?_⟩)
    by_cases hcls : i = .cls
    · rw [hi, hcls]
    · exact absurd (exec_fb_of_ne_cls ran hcls) hfb
  · exact absurd (congrArg State.fb failed) hfb
  · rw [wrote] at hfb
    cases timer <;> exact absurd rfl hfb
  · exact .inr (.inl ⟨a, b, rows, drew⟩)

end Sys2Proof.Proofs
end

section
/-! PROOFS. The invariant `Inv` and the parameter EMPTY_POP_MODE: kept by every STEP, transaction and clock
edge (R25, R40, R90, R96). -/

namespace Sys2Proof.Proofs

open Machine Claims

/-- What each of the machine's moves is to keep: t meets the invariant, under s's EMPTY_POP_MODE. -/
abbrev Kept (s t : State) : Prop := Inv t ∧ t.popMode = s.popMode

/-- Settles O57: reset memory is in canonical form, I is 0 and FSM is IDLE. -/
theorem resetMeetsInvariant : Obligations.ResetMeetsInvariant :=
  ⟨⟨reset_mem_wf, by decide, trivial⟩, rfl⟩

/-- RESET gives a state that meets the invariant. -/
theorem kept_resetCore (s : State) : Kept s s.resetCore :=
  ⟨⟨reset_mem_wf, resetMeetsInvariant.1.i_lt, trivial⟩, rfl⟩

section
variable {s t : State} (hs : Inv s)
include hs

/-- A move that leaves memory, I and EMPTY_POP_MODE keeps the invariant where the new FSM is within its
bounds. -/
theorem kept_of_same (hmem : t.mem = s.mem) (hi : t.i = s.i) (hfsm : t.fsm.Inv)
    (hmode : t.popMode = s.popMode) : Kept s t :=
  ⟨⟨hmem ▸ hs.mem_wf, hi ▸ hs.i_lt, hfsm⟩, hmode⟩

/-- An instruction keeps the invariant: it leaves memory, FSM and EMPTY_POP_MODE, and I within 12 bits. -/
theorem kept_exec {i : Instr} (h : exec i s = .next t) : Kept s t := by
  have hi := exec_i_le h (Nat.le_of_lt_succ hs.i_lt)
  exact ⟨⟨exec_mem h ▸ hs.mem_wf, Nat.lt_succ_of_le hi, exec_fsm h ▸ hs.fsm_ok⟩, exec_popMode h⟩

/-- A STEP keeps the invariant: it runs an instruction with the fetched word in IR. -/
theorem kept_step (h : step s = .next t) : Kept s t := by
  obtain ⟨-, i, -, hexec⟩ := step_next h
  exact kept_exec (s := s.setIr s.fetch) ⟨hs.mem_wf, hs.i_lt, hs.fsm_ok⟩ hexec

/-- A transaction keeps the invariant, whichever of its effects it has. -/
theorem kept_transact (r : Request) : Kept s (s.transact r).2 := by
  obtain unchanged | ⟨-, reset⟩ | ⟨-, ⟨_, data, -, -, load⟩ | ⟨_, -, -, ran⟩ | ⟨-, -, failed⟩ |
    ⟨timer, _, -, wrote⟩ | ⟨_, _, _, -, drew⟩⟩ := transact_cases r s
  · rw [unchanged]; exact ⟨hs, rfl⟩
  · rw [reset]; exact kept_resetCore s
  · rw [load]; exact ⟨⟨storeBytes_wf hs.mem_wf _ data, hs.i_lt, hs.fsm_ok⟩, rfl⟩
  · exact kept_exec (s := s.setIr s.fetch) ⟨hs.mem_wf, hs.i_lt, hs.fsm_ok⟩ ran
  · rw [failed]; exact kept_of_same hs rfl rfl hs.fsm_ok rfl
  · rw [wrote]; cases timer <;> exact kept_of_same hs rfl rfl hs.fsm_ok rfl
  · rw [drew]; exact kept_of_same hs rfl rfl hs.fsm_ok rfl

end

/-- Settles O58: a step runs one instruction. -/
theorem stepKeepsInvariant : Obligations.StepKeepsInvariant := fun _ _ hs h => kept_step hs h

/-- Settles O59, by the effects a transaction can have. -/
theorem transactionKeepsInvariant : Obligations.TransactionKeepsInvariant := fun r _ hs => kept_transact hs r

/-! ## Clock edges (R96) -/

/-- A request starts within its bounds. -/
theorem acceptedFsm_inv (p : PinsIn) : (acceptedFsm p).Inv := by
  unfold acceptedFsm
  split_ifs
  · trivial
  · trivial
  · split <;> trivial
  · split <;> trivial
  · exact Nat.zero_le _
  · trivial

section
variable {s : State} (hs : Inv s) (p : PinsIn)
include hs

/-- Moving FSM to a state within its bounds keeps the invariant. -/
theorem kept_setFsm {f : Fsm} (hf : f.Inv) : Kept s (s.setFsm f) := kept_of_same hs rfl rfl hf rfl

/-- EXECUTE keeps the invariant. -/
theorem kept_clockExecute : Kept s (s.clockExecute p) := by
  unfold State.clockExecute
  split
  · exact kept_setFsm hs trivial
  · split
    · exact kept_setFsm hs trivial
    · exact ⟨hs, rfl⟩
  · exact kept_setFsm hs trivial

/-- COMMIT keeps the invariant: it runs an instruction and goes to IDLE. -/
theorem kept_clockCommit (byte : Option Byte) : Kept s (s.clockCommit byte) := by
  have hans : Kept s (s.answered byte) := by
    cases byte with
    | none => exact ⟨hs, rfl⟩
    | some b => exact kept_of_same hs rfl rfl hs.fsm_ok rfl
  unfold State.clockCommit
  split
  · split
    · next ht =>
      obtain ⟨hinv, hmode⟩ := kept_exec hans.1 ht
      exact ⟨(kept_setFsm (f := .idle) hinv trivial).1, hmode.trans hans.2⟩
    · exact kept_setFsm hs trivial
    · exact kept_setFsm hs trivial
  · exact kept_setFsm hs trivial

/-- LOAD_WRITE keeps the invariant: a beat taken leaves no more taken than announced. -/
theorem kept_clockLoadWrite {start : Addr} {len : BitVec 13} {sent : Nat}
    (hf : s.fsm = .loadWrite start len sent) : Kept s (s.clockLoadWrite start len sent p) := by
  have hbounds := hs.fsm_ok
  rw [hf] at hbounds
  obtain ⟨hfit, -⟩ := hbounds
  unfold State.clockLoadWrite
  split_ifs with hlt
  · exact ⟨⟨memWrite1_wf hs.mem_wf _ _, hs.i_lt, hfit, hlt⟩, rfl⟩
  · exact ⟨hs, rfl⟩
  · exact kept_of_same hs rfl rfl trivial rfl

/-- DRAW_ROW keeps the invariant: a beat taken leaves no more taken than announced. -/
theorem kept_clockDrawRow (x y : Byte) (n : BitVec 4) (sent : Nat) (erased : Bool) :
    Kept s (s.clockDrawRow x y n sent erased p) := by
  unfold State.clockDrawRow
  split_ifs with hlt
  · exact kept_of_same hs rfl rfl hlt rfl
  · exact ⟨hs, rfl⟩
  · exact kept_setFsm hs trivial

/-- One edge with rst low keeps the invariant, state by state of FSM. -/
theorem kept_clockEdge : Kept s (s.clockEdge p) := by
  cases hf : s.fsm with
  | idle =>
    rw [clockEdge_idle hf]
    split
    · exact kept_setFsm hs (acceptedFsm_inv p)
    · exact ⟨hs, rfl⟩
  | fetchHi => rw [clockEdge_fetchHi hf]; exact kept_of_same hs rfl rfl trivial rfl
  | fetchLo => rw [clockEdge_fetchLo hf]; exact kept_of_same hs rfl rfl trivial rfl
  | decode => rw [clockEdge_decode hf]; split <;> exact kept_setFsm hs trivial
  | execute => rw [clockEdge_execute hf]; exact kept_clockExecute hs p
  | clear row => rw [clockEdge_clear hf]; split <;> exact kept_of_same hs rfl rfl trivial rfl
  | commit byte => rw [clockEdge_commit hf]; exact kept_clockCommit hs byte
  | fault => rw [clockEdge_fault hf]; exact kept_setFsm hs trivial
  | loadCheck start len =>
    rw [clockEdge_loadCheck hf]
    split
    · next hfit => exact kept_setFsm hs ⟨of_decide_eq_true hfit, Nat.zero_le _⟩
    · exact kept_setFsm hs trivial
  | loadWrite => rw [clockEdge_loadWrite hf]; exact kept_clockLoadWrite hs p hf
  | readOut => rw [clockEdge_readOut hf]; exact kept_setFsm hs trivial
  | timerWr timer v => rw [clockEdge_timerWr hf]; cases timer <;> exact kept_of_same hs rfl rfl trivial rfl
  | drawRow => rw [clockEdge_drawRow hf]; exact kept_clockDrawRow hs p ..
  | badReq => rw [clockEdge_badReq hf]; exact kept_setFsm hs trivial

end

/-- Settles O60: an edge resets the core or takes the state machine one state on. -/
theorem clockEdgeKeepsInvariant : Obligations.ClockEdgeKeepsInvariant := by
  intro p s hs
  cases hrst : p.rst
  · rw [State.tick_of_run hrst]; exact kept_clockEdge hs p
  · rw [State.tick_of_rst hrst]; exact kept_resetCore s

end Sys2Proof.Proofs
end

section
/-! PROOFS. The step's answers (R84, R87, R144) and single words and states (R72, R162). -/

namespace Sys2Proof.Proofs

open Machine Claims

/-- The encoding of an instruction decodes to it. -/
theorem decodeWord_of_encode_eq {i : Instr} {op : Word} (h : encode i = op) : decodeWord op = some i :=
  h ▸ decodeWord_encode i

/-- Settles O1: each word is the encoding of its instruction. -/
theorem sampleWordsDecode : Obligations.SampleWordsDecode := by
  unfold Obligations.SampleWordsDecode
  and_intros <;> exact decodeWord_of_encode_eq rfl

/-- Settles O11: the case of PC's law that sequential instructions are. -/
theorem sequentialAdvancesByTwo : Obligations.SequentialAdvancesByTwo := fun _ s hi => exec_sequential hi s

/-- Settles O55: the word fetched from empty memory is 0x0000, which decodes to nothing. -/
theorem stepAfterResetFails : Obligations.StepAfterResetFails :=
  step_of_unknown (s := State.reset) rfl (by decide)

/-- Settles O9: the state after the failure fetches the same word from the same address. -/
theorem failedStepReportsAndRepeats : Obligations.FailedStepReportsAndRepeats :=
  fun s hs hw => ⟨s.fetchAddr, fetchAddr_toNat s, transact_step_of_unknown hs hw,
    transact_step_of_unknown (s := s.setIr s.fetch) hs hw⟩

/-! ## What a request can be answered (R144) -/

/-- A STEP from IDLE completes exactly where the fetched word decodes. -/
theorem step_completes_iff {s : State} (hs : s.fsm = .idle) :
    (∃ t, step s = .next t) ↔ ∃ i, decodeWord s.fetch = some i := by
  constructor
  · rintro ⟨t, ht⟩
    obtain ⟨-, i, hi, -⟩ := step_next ht
    exact ⟨i, hi⟩
  · rintro ⟨i, hi⟩
    rw [step_of_decode hs hi]
    exact exec_isNext i _

/-- The answers that report no failure (R145). -/
def Succeeds (a : Response) : Prop :=
  a = .noResponse ∨ a = .ok ∨ (∃ v, a = .value v) ∨ ∃ e, a = .didErase e

/-- R90: a LOAD that does not fit is refused whole. -/
theorem transact_load_of_not_fits {s : State} (hs : s.fsm = .idle) {start : Option Addr} {data : List Byte}
    (hbig : 4096 < startNat start + data.length) :
    s.transact (.load start data) = (.loadTooLarge, s) := by
  have hno : ¬ loadFits (loadStart start) data.length = true := by
    rw [startNat_eq] at hbig
    rw [loadFits, decide_eq_true_eq]
    exact Nat.not_le_of_lt hbig
  rw [transact_of_idle hs rfl]
  exact if_neg hno

/-- A well-formed request from IDLE succeeds, but for a STEP on an unknown opcode and a LOAD that does not
fit. -/
theorem transact_answer_cases {s : State} (hs : s.fsm = .idle) {r : Request} (hr : r.wellFormed = true) :
    Succeeds (s.transact r).1 ∨
    (r = .step ∧ decodeWord s.fetch = none ∧ (s.transact r).1 = .unknownOpcode s.fetch s.fetchAddr) ∨
    ∃ start data, r = .load start data ∧ 4096 < startNat start + data.length ∧
      (s.transact r).1 = .loadTooLarge := by
  cases r with
  | reset => exact .inl (.inl rfl)
  | load start data =>
    by_cases hfit : startNat start + data.length ≤ 4096
    · exact .inl (.inr (.inl (by rw [transact_load_of_fits hs hfit])))
    · exact .inr (.inr ⟨start, data, rfl, by omega, by rw [transact_load_of_not_fits hs (by omega)]⟩)
  | step =>
    cases hi : decodeWord s.fetch with
    | some i =>
      obtain ⟨-, t, -, ht⟩ := step_transact_of_decode hs hi
      exact .inl (.inr (.inl (by rw [ht])))
    | none => exact .inr (.inl ⟨rfl, rfl, by rw [transact_step_of_unknown hs hi]⟩)
  | read t => exact .inl (.inr (.inr (.inl ⟨_, by rw [transact_of_idle hs hr]; rfl⟩)))
  | writeTimer t v => exact .inl (.inr (.inl (by rw [transact_of_idle hs hr]; rfl)))
  | draw x y rows => exact .inl (.inr (.inr (.inr ⟨_, by rw [transact_of_idle hs hr]; rfl⟩)))
  | malformed => cases hr

/-- Settles O10: a failure is one of the two in `transact_answer_cases`. -/
theorem nothingElseFails : Obligations.NothingElseFails := by
  refine fun s hs => ⟨step_completes_iff hs, fun r hr => ?answers, fun x y rows hlen => ?draw,
    fun target => ⟨_, transact_of_idle hs rfl⟩⟩
  case answers =>
    obtain (h | h | ⟨_, h⟩ | ⟨_, h⟩) | ⟨hstep, hno, h⟩ | ⟨start, data, hload, hbig, h⟩ :=
      transact_answer_cases hs hr
    case inr.inl => rw [h]; exact ⟨fun _ _ _ => ⟨hstep, hno⟩, nofun, nofun, nofun⟩
    case inr.inr => rw [h]; exact ⟨nofun, fun _ => ⟨start, data, hload, hbig⟩, nofun, nofun⟩
    all_goals rw [h]; exact ⟨nofun, nofun, nofun, nofun⟩
  case draw => exact ⟨_, _, transact_of_idle hs (decide_eq_true hlen)⟩

end Sys2Proof.Proofs
end

section
/-! PROOFS. The control transfers of 41_control_flow.md with their frames: skips on two registers (R107,
R108), CALL, RET and the call stack (R31, R32, R101, R103). -/

namespace Sys2Proof.Proofs

open Machine Claims

/-! ## Frames of writes to PC and the stack (R14) -/

/-- A write of PC changes nothing else. -/
theorem onlyPc_setPc (s : State) (w : Word) : OnlyPc s (s.setPc w) :=
  ⟨fun _ _ => rfl, rfl, ⟨rfl, fun _ => rfl⟩, fun _ _ => rfl, rfl, rfl, rfl, fun _ => rfl, rfl, rfl, rfl⟩

/-- A skip changes PC alone. -/
theorem onlyPc_skipIf (s : State) (c : Bool) : OnlyPc s (s.skipIf c) := by
  rw [State.skipIf_eq]; exact onlyPc_setPc s _

/-- Writes of the stack, SC and PC change nothing else. -/
theorem onlyStackAndPc_of_writes (s : State) (stack : Vector Word 16) (n : Fin 17) (w : Word) :
    OnlyStackAndPc s { s with stack := stack, sc := n, pc := w } :=
  ⟨fun _ _ => rfl, rfl, fun _ _ => rfl, rfl, rfl, rfl, fun _ => rfl, rfl, rfl, rfl⟩

/-- A push writes the stack and SC alone. -/
theorem push_writes (s : State) (a : Word) : ∃ stack n, s.push a = { s with stack := stack, sc := n } := by
  rw [State.push_eq]; exact ⟨_, _, rfl⟩

/-- Settles O18, by the encodings of classes 5 and 9 and the skips on equality and on difference. -/
theorem skipOnTwoRegisters : Obligations.SkipOnTwoRegisters :=
  ⟨decodesAs_of_class_low (k := 0x5#4) (j := 0x0#4) (by simp [decodeNibbles]),
    decodesAs_of_class_low (k := 0x9#4) (j := 0x0#4) (by simp [decodeNibbles]),
    fun x y s => ⟨
      ⟨s.skipIf (s.getV x == s.getV y), rfl, fun h => pcRises_skipIf_of_true (beq_iff_eq.mpr h) s,
        fun h => pcRises_skipIf_of_false (beq_eq_false_iff_ne.mpr h) s, onlyPc_skipIf s _⟩,
      ⟨s.skipIf (s.getV x != s.getV y), rfl, fun h => pcRises_skipIf_of_true (bne_iff_ne.mpr h) s,
        fun h => pcRises_skipIf_of_false (bne_eq_false_iff_eq.mpr h) s, onlyPc_skipIf s _⟩⟩⟩

/-- Settles O20: jumps and skips write PC alone, a CALL is a push and a jump. -/
theorem frameOfControlTransfers : Obligations.FrameOfControlTransfers := by
  refine fun nnn x kk s => ⟨?pcOnly, ?call⟩
  case pcOnly =>
    simp only [List.forall_mem_cons]
    exact ⟨⟨_, exec_jp s nnn, onlyPc_setPc s _⟩, ⟨_, exec_jpV0 s nnn, onlyPc_setPc s _⟩,
      ⟨_, exec_seByte s x kk, onlyPc_setPc s _⟩, ⟨_, exec_sneByte s x kk, onlyPc_setPc s _⟩, nofun⟩
  case call => exact ⟨_, exec_call s nnn, onlyStackAndPc_of_writes s _ _ _⟩

/-! ## Pop (R32) -/

/-- A pop changes no slot. -/
theorem popWith_stack (s : State) (mode : Config.EmptyPopMode) : (s.popWith mode).2.stack = s.stack := by
  rw [State.popWith_snd_eq, State.setSc_stack]

/-- A pop lowers SC by one, from 0 to 0. -/
theorem popWith_sc (s : State) (mode : Config.EmptyPopMode) :
    (s.popWith mode).2.sc.val = s.sc.val - 1 := by
  rw [State.popWith_snd_eq, State.setSc_sc, popCount]

/-- A pop of a stack that holds something gives the top slot. -/
theorem popWith_fst_of_sc {s : State} (mode : Config.EmptyPopMode) {k : RegIdx}
    (hk : s.sc.val = k.toNat + 1) : (s.popWith mode).1 = s.slot k := by
  have hslot : BitVec.ofNat 4 (s.sc.val - 1) = k := by
    rw [hk, Nat.add_sub_cancel, BitVec.ofNat_toNat, BitVec.setWidth_eq]
  rw [State.popWith_of_pos s (by omega), hslot]

/-- A pop after a push gives the address pushed, with room on the stack or without. -/
theorem popWith_push_fst (s : State) (mode : Config.EmptyPopMode) (a : Word) :
    ((s.push a).popWith mode).1 = a := by
  have hk : (BitVec.ofNat 4 (min s.sc.val 15)).toNat = min s.sc.val 15 := by
    rw [BitVec.toNat_ofNat]; omega
  rw [popWith_fst_of_sc mode (k := BitVec.ofNat 4 (min s.sc.val 15)) (by rw [sc_push, hk]; omega),
    slot_push_same hk]

/-- Settles O41, by the value and the count a pop leaves. -/
theorem popGivesNewestAddress : Obligations.PopGivesNewestAddress := by
  refine fun s mode a => ⟨popWith_push_fst s mode a, fun h => Fin.ext ?back, fun h => ?empty,
    fun _ => popWith_sc s mode, popWith_stack s mode⟩
  case back => rw [popWith_sc, sc_push]; omega
  case empty => rw [State.popWith_of_empty s h]; cases mode <;> rfl

/-! ## RET (R101) -/

/-- RET writes SC and PC alone. -/
theorem returnWith_writes (s : State) (mode : Config.EmptyPopMode) :
    returnWith mode s =
      { s with sc := (s.popWith mode).2.sc, pc := (s.popWith mode).1 } := by
  rw [returnWith, State.popWith_snd_eq]
  rfl

/-- Settles O13: RET goes where a pop says, and its frame is that of a pop and a jump. -/
theorem returnPopsIntoPc : Obligations.ReturnPopsIntoPc := by
  refine ⟨decodesAs_of_word (decodeWord_nibbles 0x0#4 0x0#4 0xE#4 0xE#4), fun s =>
    ⟨returnWith s.popMode s, rfl, ?_⟩⟩
  rw [returnWith_writes]
  refine ⟨fun h => ?empty, fun k hk => ⟨popWith_fst_of_sc _ hk, ?count⟩, fun _ => rfl,
    onlyStackAndPc_of_writes s _ _ _⟩
  case empty =>
    rw [State.popWith_of_empty s h]
    refine ⟨rfl, fun hmode => ?_, fun hmode => ?_⟩ <;> rw [hmode] <;> rfl
  case count => rw [popWith_sc, hk, Nat.add_sub_cancel]

/-! ## CALL, then RET -/

/-- RET overwrites PC, so a jump before it makes no difference. -/
theorem returnWith_setPc (s : State) (mode : Config.EmptyPopMode) (w : Word) :
    returnWith mode (s.setPc w) = returnWith mode s := by
  rw [returnWith_writes, returnWith_writes, State.popWith_snd_eq, State.popWith_snd_eq,
    State.popWith_fst_eq, State.popWith_fst_eq]
  rfl

/-- A push and a RET lead to the address pushed and write the stack, SC and PC alone. -/
theorem returnWith_push (s : State) (mode : Config.EmptyPopMode) (a : Word) :
    returnWith mode (s.push a) =
      { s with stack := (s.push a).stack, sc := ((s.push a).popWith mode).2.sc, pc := a } := by
  obtain ⟨_, _, hpush⟩ := push_writes s a
  rw [returnWith_writes, popWith_push_fst, hpush]

/-- Settles O42: RET pops what CALL pushed. -/
theorem callThenReturnComesBack : Obligations.CallThenReturnComesBack := by
  rintro nnn s _ ⟨⟩
  refine ⟨returnWith _ (s.push (returnAddress s)), congrArg Host.Outcome.next (returnWith_setPc ..), ?_⟩
  rw [returnWith_push]
  obtain ⟨hregs, hi, hfb, -, hothers⟩ := onlyStackAndPc_of_writes s (s.push (returnAddress s)).stack
    ((s.push (returnAddress s)).popWith s.popMode).2.sc (returnAddress s)
  refine ⟨pc_add_two_toNat s, fun h => Fin.ext ?room, fun h => ?full, hregs, hi, hfb, hothers,
    fun k hk hlast => ?slots⟩
  case room => rw [popWith_sc, sc_push]; omega
  case full => rw [popWith_sc, sc_push]; omega
  case slots =>
    have hlt : k.toNat < 15 := (lt_or_eq_lastSlot k).resolve_right hlast
    exact (slot_push s _ k).trans (if_neg (by omega))

end Sys2Proof.Proofs
end

section
/-! PROOFS. The sequential instructions of 42_alu.md and 43_display.md with their frames: logic (R115 to
R117), sums and differences with a flag (R118, R119, R121), shifts (R120, R122) and RND (R124). -/

namespace Sys2Proof.Proofs

open Machine Claims

/-! ## One register written (R14, R84) -/

/-- Writes of V registers and PC leave the rest. -/
theorem onlyRegsAndPc_of_writes (s : State) (v : Vector Byte 16) (w : Word) :
    OnlyRegsAndPc s { s with v := v, pc := w } :=
  ⟨rfl, ⟨rfl, fun _ => rfl⟩, fun _ _ => rfl, rfl, rfl, rfl, fun _ => rfl, rfl, rfl, rfl⟩

/-- A write of Vx leaves the other V registers. -/
theorem regsSameBut_setV (s : State) (x : RegIdx) (r : Byte) (w : Word) :
    RegsSameBut [x] s ((s.setV x r).setPc w) := fun q hq => by
  have hxq : x ≠ q := fun h => hq (List.mem_singleton.mpr h.symm)
  rw [State.getV_setPc, State.getV_setV_ne _ _ hxq]

/-- Settles O24: each writes one thing and PC. -/
theorem frameOfLoadsAndClear : Obligations.FrameOfLoadsAndClear := by
  refine fun x y kk nnn s => ⟨?regs, ⟨_, exec_ldI s nnn, ?_⟩, ⟨_, exec_cls s, ?_⟩⟩
  case regs =>
    simp only [List.forall_mem_cons]
    exact ⟨⟨_, exec_ldByte s x kk, regsSameBut_setV s x _ _, onlyRegsAndPc_of_writes s _ _⟩,
      ⟨_, exec_addByte s x kk, regsSameBut_setV s x _ _, onlyRegsAndPc_of_writes s _ _⟩,
      ⟨_, exec_ldReg s x y, regsSameBut_setV s x _ _, onlyRegsAndPc_of_writes s _ _⟩, nofun⟩
  · exact ⟨fun _ _ => rfl, ⟨rfl, fun _ => rfl⟩, fun _ _ => rfl, rfl, exec_othersSame (exec_ldI s nnn)⟩
  · exact ⟨fun _ _ => rfl, rfl, ⟨rfl, fun _ => rfl⟩, rfl, exec_othersSame (exec_cls s)⟩

/-- Settles O25: the result is taken bit by bit. -/
theorem logicBitByBit : Obligations.LogicBitByBit := by
  refine ⟨decodesAs_of_class_low (k := 0x8#4) (j := 0x1#4) (by simp [decodeNibbles]),
    decodesAs_of_class_low (k := 0x8#4) (j := 0x2#4) (by simp [decodeNibbles]),
    decodesAs_of_class_low (k := 0x8#4) (j := 0x3#4) (by simp [decodeNibbles]), fun x y s => ?_⟩
  simp only [List.forall_mem_cons]
  refine ⟨⟨_, exec_orReg s x y, fun j _ => ?or, regsSameBut_setV s x _ _, pc_add_two_toNat s,
      onlyRegsAndPc_of_writes s _ _⟩,
    ⟨_, exec_andReg s x y, fun j _ => ?and, regsSameBut_setV s x _ _, pc_add_two_toNat s,
      onlyRegsAndPc_of_writes s _ _⟩,
    ⟨_, exec_xorReg s x y, fun j _ => ?xor, regsSameBut_setV s x _ _, pc_add_two_toNat s,
      onlyRegsAndPc_of_writes s _ _⟩, nofun⟩
  case or => rw [State.getV_setPc, State.getV_setV_same, BitVec.getLsbD_or]
  case and => rw [State.getV_setPc, State.getV_setV_same, BitVec.getLsbD_and]
  case xor => rw [State.getV_setPc, State.getV_setV_same, BitVec.getLsbD_xor, Bool.bne_eq_xor]

/-! ## A register and VF written (R24, R118 to R122) -/

section
variable (s : State) (x : RegIdx) (r q : Byte) (w : Word)

/-- Writes of Vx and then VF leave the other V registers. -/
theorem regsSameBut_setV_flag : RegsSameBut [x, 0xF#4] s (((s.setV x r).setV regVF q).setPc w) :=
  fun z hz => by
    obtain ⟨hx, hf⟩ := not_or.mp (mt List.mem_pair.mpr hz)
    exact getV_setV_setV_ne s r q (Ne.symm hx) (Ne.symm hf)

/-- Writes of VF and then Vx leave the other V registers. -/
theorem regsSameBut_flag_setV : RegsSameBut [x, 0xF#4] s (((s.setV regVF q).setV x r).setPc w) :=
  fun z hz => by
    obtain ⟨hx, hf⟩ := not_or.mp (mt List.mem_pair.mpr hz)
    exact getV_setV_setV_ne s q r (Ne.symm hf) (Ne.symm hx)

/-- R24: with VF written first, the result remains whatever x is. -/
theorem getV_flag_setV_result : (((s.setV regVF q).setV x r).setPc w).getV x = r := by
  rw [State.getV_setPc, State.getV_setV_same]

/-- With VF written first and Vx another register, the flag remains. -/
theorem getV_flag_setV_flag (hx : x ≠ 0xF#4) : (((s.setV regVF q).setV x r).setPc w).getV 0xF#4 = q := by
  rw [State.getV_setPc, State.getV_setV_ne _ _ hx, State.getV_setV_same]

end

theorem carryFlag_of_gt {a b : Byte} (h : a.toNat + b.toNat > 255) : carryFlag a b = 0x01#8 := by
  rw [carryFlag, decide_eq_true h]; rfl

theorem carryFlag_of_le {a b : Byte} (h : a.toNat + b.toNat ≤ 255) : carryFlag a b = 0x00#8 := by
  rw [carryFlag, decide_eq_false (Nat.not_lt_of_le h)]; rfl

theorem noBorrowFlag_of_le {a b : Byte} (h : b.toNat ≤ a.toNat) : noBorrowFlag a b = 0x01#8 := by
  rw [noBorrowFlag, decide_eq_true h]; rfl

theorem noBorrowFlag_of_lt {a b : Byte} (h : a.toNat < b.toNat) : noBorrowFlag a b = 0x00#8 := by
  rw [noBorrowFlag, decide_eq_false (Nat.not_le_of_lt h)]; rfl

/-- Settles O26: the carry is written last, and so remains where x = 0xF. -/
theorem addRegistersWithCarry : Obligations.AddRegistersWithCarry := by
  refine ⟨decodesAs_of_class_low (k := 0x8#4) (j := 0x4#4) (by simp [decodeNibbles]), fun x y s =>
    ⟨_, exec_addReg s x y, fun h => ?_, fun h => ?_, fun hx => ?sum, regsSameBut_setV_flag s x _ _ _,
      pc_add_two_toNat s, onlyRegsAndPc_of_writes s _ _⟩⟩
  · rw [State.getV_setPc, State.getV_setV_same, carryFlag_of_gt h]
  · rw [State.getV_setPc, State.getV_setV_same, carryFlag_of_le h]
  case sum => rw [State.getV_setPc, State.getV_setV_ne _ _ (Ne.symm hx), State.getV_setV_same, addByte_toNat]

/-- A difference is written to Vx last and its no-borrow flag to VF. -/
theorem difference_and_flag (s : State) (x : RegIdx) (a b : Byte) :
    let t := ((s.setV regVF (noBorrowFlag a b)).setV x (subByte a b)).setPc (s.pc + 2#16)
    ((t.getV x).toNat : Int) = (a.toNat - b.toNat : Int) % 256 ∧
    (x ≠ 0xF#4 → b.toNat ≤ a.toNat → t.getV 0xF#4 = 0x01#8) ∧
    (x ≠ 0xF#4 → a.toNat < b.toNat → t.getV 0xF#4 = 0x00#8) ∧
    RegsSameBut [x, 0xF#4] s t ∧ PcRises 2 s t ∧ OnlyRegsAndPc s t := by
  refine ⟨?_, fun hx h => ?_, fun hx h => ?_, regsSameBut_flag_setV s x _ _ _, pc_add_two_toNat s,
    onlyRegsAndPc_of_writes s _ _⟩
  · rw [getV_flag_setV_result, subByte_toNat]
  · rw [getV_flag_setV_flag _ _ _ _ _ hx, noBorrowFlag_of_le h]
  · rw [getV_flag_setV_flag _ _ _ _ _ hx, noBorrowFlag_of_lt h]

/-- Settles O27, by the difference Vx - Vy. -/
theorem subtractRegisters : Obligations.SubtractRegisters :=
  ⟨decodesAs_of_class_low (k := 0x8#4) (j := 0x5#4) (by simp [decodeNibbles]),
    fun x y s => ⟨_, exec_subReg s x y, difference_and_flag s x _ _⟩⟩

/-- Settles O28, by the difference Vy - Vx. -/
theorem subtractRegistersReversed : Obligations.SubtractRegistersReversed :=
  ⟨decodesAs_of_class_low (k := 0x8#4) (j := 0x7#4) (by simp [decodeNibbles]),
    fun x y s => ⟨_, exec_subnReg s x y, difference_and_flag s x _ _⟩⟩

/-- A shift of Vx is written last and the old bit 0 to VF. -/
theorem shift_and_flag (s : State) (x : RegIdx) (a r : Byte) :
    let t := ((s.setV regVF (a &&& 0x01#8)).setV x r).setPc (s.pc + 2#16)
    t.getV x = r ∧ (x ≠ 0xF#4 → (t.getV 0xF#4).toNat = a.toNat % 2) ∧
    RegsSameBut [x, 0xF#4] s t ∧ PcRises 2 s t ∧ OnlyRegsAndPc s t := by
  refine ⟨getV_flag_setV_result s x r _ _, fun hx => ?_, regsSameBut_flag_setV s x _ _ _,
    pc_add_two_toNat s, onlyRegsAndPc_of_writes s _ _⟩
  rw [getV_flag_setV_flag _ _ _ _ _ hx, and_one_toNat]

/-- Settles O29, by the half of Vx. -/
theorem shiftRight : Obligations.ShiftRight := by
  refine ⟨decodesAs_of_class_low (k := 0x8#4) (j := 0x6#4) (by simp [decodeNibbles]), fun x y s => ?_⟩
  obtain ⟨hx, hflag, hregs, hpc, hrest⟩ := shift_and_flag s x (s.getV x) (shrByte (s.getV x))
  exact ⟨_, exec_shr s x y, by rw [shrFlag, hx, shrByte_toNat], hflag, hregs, hpc, hrest, exec_shr s x⟩

/-- Settles O30, by the double of Vx. -/
theorem shiftLeftFlagsBitZero : Obligations.ShiftLeftFlagsBitZero := by
  refine ⟨decodesAs_of_class_low (k := 0x8#4) (j := 0xE#4) (by simp [decodeNibbles]), fun x y s => ?_⟩
  obtain ⟨hx, hflag, hregs, hpc, hrest⟩ := shift_and_flag s x (s.getV x) (shlByte (s.getV x))
  exact ⟨_, exec_shl s x y, by rw [shlFlag, hx, shlByte_toNat], hflag, hregs, hpc, hrest, exec_shl s x⟩

/-! ## RND (R124) -/

/-- Settles O32, by the one request and the write of Vx. -/
theorem randomByteMasked : Obligations.RandomByteMasked := by
  refine ⟨decodesAs_of_class (k := 0xC#4) (by simp [decodeNibbles]), fun x kk s =>
    ⟨_, exec_rnd s x kk, s.rndRequested.getV_setV_same x _, regsSameBut_setV s.rndRequested x _ _,
      pc_add_two_toNat s, rfl, rfl, rfl, ⟨rfl, fun _ => rfl⟩, fun _ _ => rfl,
      exec_othersSame (exec_rnd s x kk)⟩,
    fun x kk b s => ⟨_, exec_rnd (s.offerRandom b) x kk, ?announced, rfl, rfl⟩⟩
  case announced => rw [State.getV_setPc, State.getV_setV_same, State.rndByte_offerRandom]

end Sys2Proof.Proofs
end

section
/-! PROOFS. Memory (R44 to R51), the transactions LOAD (R89, R90), READ and WRITE_TIMER (R91, R92), reset
(R39, R97) and the busy core (R95, R165). -/

namespace Sys2Proof.Proofs

open Machine Claims

/-! ## Words in memory (R45, R49) -/

/-- Settles O43: the byte at a + 1 is written last, and it is not the byte at a. -/
theorem wordWriteIsTwoBytesWrapped : Obligations.WordWriteIsTwoBytesWrapped := by
  refine fun m a w hm => ⟨fun c => ?_, memRead2_memWrite2 hm a w, memWrite2_wf hm a w⟩
  have hbytes : memRead1 (memWrite2 m a w) c =
      if c % 4096 = (a + 1) % 4096 then loByte w else if c % 4096 = a % 4096 then hiByte w
      else memRead1 m c := by
    rw [memWrite2, memRead1_memWrite1 (memWrite1_wf hm _ _), memRead1_memWrite1 hm]
    rfl
  rw [hbytes]
  split_ifs with hlo hhi
  · omega
  · rfl
  · rfl
  · rfl

/-! ## LOAD (R89, R90) -/

section
variable {s : State} (hs : s.mem.wf) {start : Addr} {data : List Byte}
  (hfit : start.toNat + data.length ≤ 4096)
include hs hfit

/-- Byte k of the data is at start + k after a LOAD. -/
theorem byteAt_load_of_lt {k : Nat} (hk : k < data.length) :
    (s.load start data).byteAt (start.toNat + k) = data[k] := by
  have hin : start.toNat + k < 4096 := by omega
  refine (memRead1_storeBytes hs _ _ data hfit hin).trans ?_
  rw [if_pos (Nat.le_add_right _ _), Nat.add_sub_cancel_left, List.getElem?_eq_getElem hk]
  rfl

/-- A byte outside the data is as it was. -/
theorem byteAt_load_outside {c : Nat} (hc : c < 4096)
    (hout : c < start.toNat ∨ start.toNat + data.length ≤ c) :
    (s.load start data).byteAt c = s.byteAt c := by
  refine (memRead1_storeBytes hs _ _ data hfit hc).trans ?_
  split_ifs with hle
  · rw [List.getElem?_eq_none (by omega)]; rfl
  · rfl

end

/-- Settles O44, by the bytes after a LOAD and its frame. -/
theorem loadWritesProgramOrRefuses : Obligations.LoadWritesProgramOrRefuses := by
  refine fun s start data hs hm => ⟨fun hfit => ?_, transact_load_of_not_fits hs⟩
  have hload := transact_load_of_fits hs hfit
  rw [startNat_eq] at hfit ⊢
  exact ⟨_, hload, fun _ => byteAt_load_of_lt hm hfit, fun _ => byteAt_load_outside hm hfit,
    zext16_toNat _, rfl, fun _ => rfl, fun _ _ => rfl, rfl, rfl, rfl, fun _ _ => rfl, rfl, rfl, hs, rfl⟩

/-- The word fetched after a LOAD of a word's bytes is that word. -/
theorem fetch_load_bytesOfWord {s : State} (hm : s.mem.wf) {start : Addr} {w : Word} {rest : List Byte}
    (hfit : start.toNat + (bytesOfWord w ++ rest).length ≤ 4096) :
    (s.load start (bytesOfWord w ++ rest)).fetch = w := by
  have hlen : 2 ≤ (bytesOfWord w ++ rest).length := by simp [bytesOfWord]
  have hpc : (s.load start (bytesOfWord w ++ rest)).pc.toNat = start.toNat := zext16_toNat start
  have hhi := byteAt_load_of_lt hm hfit (k := 0) (by omega)
  have hlo := byteAt_load_of_lt hm hfit (k := 1) (by omega)
  rw [State.fetch_eq, hpc, hlo, ← Nat.add_zero start.toNat, hhi]
  exact wordOfBytes_hi_lo w

/-- Settles O45: the fetched word is the encoding, which decodes to the instruction. -/
theorem loadedInstructionRunsNext : Obligations.LoadedInstructionRunsNext := by
  intro i s start rest hs hm hlen
  have hfit : startNat start + (encodeBytes i ++ rest).length ≤ 4096 := by
    simp only [encodeBytes, bytesOfWord, List.length_append, List.length_cons, List.length_nil]
    omega
  have hload := transact_load_of_fits hs hfit
  rw [startNat_eq] at hfit ⊢
  have hfetch : (s.load (loadStart start) (encodeBytes i ++ rest)).fetch = encode i :=
    fetch_load_bytesOfWord hm hfit
  refine ⟨_, hload, zext16_toNat _, ?_⟩
  have hdecode : decodeWord (s.load (loadStart start) (encodeBytes i ++ rest)).fetch = some i := by
    rw [hfetch, decodeWord_encode]
  rw [← hfetch]
  exact step_of_decode (s := s.load _ _) hs hdecode

/-! ## READ and WRITE_TIMER (R91, R92) -/

/-- A byte zero-extended to a word is a zero byte and that byte. -/
theorem zero_append_byte (b : Byte) : b.setWidth 16 = (0#8 ++ b : Word) := by
  refine BitVec.eq_of_toNat_eq ?_
  rw [append_byte_toNat, BitVec.toNat_setWidth, BitVec.toNat_ofNat]
  omega

/-- R91: from IDLE a READ answers its target's value and changes nothing. -/
theorem transact_read {s : State} (hs : s.fsm = .idle) {t : ReadTarget} {v : Word}
    (hv : s.readTarget t = v) : s.transact (.read t) = (.value v, s) := by
  rw [← hv]
  exact transact_of_idle hs rfl

/-- Settles O53, target by target. -/
theorem readWriteTimerAndBadRequest : Obligations.ReadWriteTimerAndBadRequest := by
  intro s hs
  refine ⟨fun k => transact_read hs (zero_append_byte _), transact_read hs rfl, transact_read hs rfl,
    transact_read hs (zero_append_byte _), transact_read hs (zero_append_byte _),
    ⟨_, transact_read hs rfl, ?count⟩, fun k => transact_read hs rfl,
    fun a => transact_read hs (zero_append_byte _), fun x y => transact_read hs ?pixel,
    fun v => transact_of_idle hs rfl, fun v => transact_of_idle hs rfl, transact_of_illFormed hs rfl⟩
  case count => rw [State.readTarget, BitVec.toNat_ofNat]; omega
  case pixel =>
    rw [State.readTarget, fbGet_congr s.fb (wrapX_wrapX x.toNat).symm (wrapY_wrapY y.toNat).symm]
    rfl

/-! ## Reset and the busy core (R39, R97, R165) -/

/-- Settles O54: both kinds of reset give the reset state. -/
theorem resetValuesFromAnyState : Obligations.ResetValuesFromAnyState := by
  intro s p t ht
  have hreset : t = s.resetCore := by
    simp only [List.mem_cons, List.not_mem_nil, or_false] at ht
    obtain rfl | rfl := ht
    · exact congrArg Prod.snd transact_reset
    · exact State.tick_of_rst rfl
  subst hreset
  refine ⟨fun r => ?regs, rfl, rfl, rfl, rfl, fun k => ?slots, rfl, fun _ => rfl, fbGet_fbClear, rfl, rfl,
    rfl, rfl, rfl⟩
  case regs => exact Vector.getElem_replicate r.isLt
  case slots => exact Vector.getElem_replicate k.isLt

/-- Settles O56, by the answers of a core that is not in IDLE. -/
theorem busyCoreSeesOnlyReset : Obligations.BusyCoreSeesOnlyReset :=
  fun _ _ hs => ⟨step_of_busy hs, transact_of_busy hs, fun _ => decide_eq_false hs⟩

end Sys2Proof.Proofs
end

section
/-! PROOFS. The rasterizer of 43_display.md: which pixels a DRAW flips (R132), its erase bit (R133), drawing
twice (R137), and its organisation by row words (R139). -/

namespace Sys2Proof.Proofs

open Machine Claims

/-! ## The pixels under a sprite (R132) -/

/-- A 1 bit of the sprite drawn at (x, y) lands on the pixel (px, py). -/
def Covers (x y : Nat) (rows : List Byte) (px py : Nat) : Prop :=
  ∃ r b, r < rows.length ∧ b < 8 ∧ spriteBit rows r b = true ∧ wrapX (x + b) = wrapX px ∧
    wrapY (y + r) = wrapY py

theorem wrapX_wrapX_add (x b : Nat) : wrapX (wrapX x + b) = wrapX (x + b) := Nat.mod_add_mod _ _ _

theorem wrapY_wrapY_add (y r : Nat) : wrapY (wrapY y + r) = wrapY (y + r) := Nat.mod_add_mod _ _ _

section
variable (f : Framebuffer) (x y : Nat) {rows : List Byte} (hlen : rows.length ≤ 15)
include hlen

/-- R132: a draw flips the pixels under a sprite bit 1 and no other. -/
theorem fbGet_fbDraw (px py : Nat) [Decidable (Covers x y rows px py)] :
    fbGet (fbDraw f x y rows).1 px py = (fbGet f px py != decide (Covers x y rows px py)) := by
  rw [fbDraw, (drawRows_spec _ _ _ rows _ (by omega)).1]
  congr 1
  refine decide_eq_decide.mpr ?_
  simp only [Nat.add_zero, wrapX_wrapX_add, wrapY_wrapY_add, Covers, spriteBit]
  constructor
  · rintro ⟨r, hr, hy, b, hb, hbit, hx⟩
    exact ⟨r, b, hr, hb, hbit, hx, hy.symm⟩
  · rintro ⟨r, b, hr, hb, hbit, hx, hy⟩
    exact ⟨r, hr, hy.symm, b, hb, hbit, hx⟩

theorem fbGet_fbDraw_of_covers {px py : Nat} (h : Covers x y rows px py) :
    fbGet (fbDraw f x y rows).1 px py = !fbGet f px py := by
  classical rw [fbGet_fbDraw f x y hlen, decide_eq_true h, Bool.bne_true]

theorem fbGet_fbDraw_of_not_covers {px py : Nat} (h : ¬ Covers x y rows px py) :
    fbGet (fbDraw f x y rows).1 px py = fbGet f px py := by
  classical rw [fbGet_fbDraw f x y hlen, decide_eq_false h, Bool.bne_false]

/-- R133: a draw erases exactly when a sprite bit 1 lands on a pixel that was 1. -/
theorem fbDraw_erases_iff :
    (fbDraw f x y rows).2 = true ↔ ∃ r b, r < rows.length ∧ b < 8 ∧ spriteBit rows r b = true ∧
      fbGet f (x + b) (y + r) = true := by
  have hpixel : ∀ r b, fbGet f (wrapX x + b) (wrapY y + r) = fbGet f (x + b) (y + r) :=
    fun r b => fbGet_congr f (wrapX_wrapX_add x b) (wrapY_wrapY_add y r)
  rw [fbDraw, (drawRows_spec _ _ _ rows _ (by omega)).2, Bool.false_or, decide_eq_true_iff]
  simp only [Nat.add_zero, hpixel, spriteBit]
  constructor
  · rintro ⟨r, hr, b, hb, h⟩
    exact ⟨r, b, hr, hb, h⟩
  · rintro ⟨r, b, hr, hb, h⟩
    exact ⟨r, hr, b, hb, h⟩

/-- Sprite bit b of row r is the only one that lands on its pixel. -/
theorem covers_iff {r b : Nat} (hr : r < rows.length) (hb : b < 8) :
    Covers x y rows (x + b) (y + r) ↔ spriteBit rows r b = true := by
  refine ⟨?_, fun h => ⟨r, b, hr, hb, h, rfl, rfl⟩⟩
  rintro ⟨r', b', hr', hb', hbit, hx, hy⟩
  simp only [wrapX, wrapY, Config.screenW, Config.screenH] at hx hy
  have hbb : b' = b := by omega
  have hrr : r' = r := by omega
  rwa [hrr, hbb] at hbit

/-- The erase bit in terms of pixels: some covered pixel was 1. -/
theorem fbDraw_erases_iff_covers :
    (fbDraw f x y rows).2 = true ↔ ∃ px py, Covers x y rows px py ∧ fbGet f px py = true := by
  rw [fbDraw_erases_iff f x y hlen]
  constructor
  · rintro ⟨r, b, hr, hb, hbit, hpixel⟩
    exact ⟨_, _, ⟨r, b, hr, hb, hbit, rfl, rfl⟩, hpixel⟩
  · rintro ⟨px, py, ⟨r, b, hr, hb, hbit, hx, hy⟩, hpixel⟩
    exact ⟨r, b, hr, hb, hbit, by rw [fbGet_congr f hx hy, hpixel]⟩

/-- R137: a second equal draw restores the plane. -/
theorem fbDraw_fbDraw : (fbDraw (fbDraw f x y rows).1 x y rows).1 = f := by
  refine fb_ext fun px py => ?_
  by_cases h : Covers x y rows px py
  · rw [fbGet_fbDraw_of_covers _ _ _ hlen h, fbGet_fbDraw_of_covers _ _ _ hlen h, Bool.not_not]
  · rw [fbGet_fbDraw_of_not_covers _ _ _ hlen h, fbGet_fbDraw_of_not_covers _ _ _ hlen h]

/-- A pixel that a draw sets is one under a sprite bit 1 that was 0. -/
theorem set_by_fbDraw_iff (px py : Nat) :
    (fbGet f px py = false ∧ fbGet (fbDraw f x y rows).1 px py = true) ↔
      Covers x y rows px py ∧ fbGet (fbDraw f x y rows).1 px py = true := by
  refine and_congr_left fun hset => ⟨fun hclear => ?_, fun hcov => ?_⟩
  · by_contra hno
    rw [fbGet_fbDraw_of_not_covers f x y hlen hno, hclear] at hset
    cases hset
  · rwa [fbGet_fbDraw_of_covers f x y hlen hcov, Bool.not_eq_true'] at hset

end

/-! ## The transaction DRAW (R93) -/

/-- R93: from IDLE a DRAW of at most 15 rows is the rasterizer. -/
theorem transact_draw {s : State} (hs : s.fsm = .idle) (x y : Byte) {rows : List Byte}
    (hlen : rows.length ≤ 15) : s.transact (.draw x y rows) = s.draw x y rows :=
  transact_of_idle hs (decide_eq_true hlen)

/-- Settles O46, by the pixels a draw flips. -/
theorem drawFlipsSpritePixels : Obligations.DrawFlipsSpritePixels := by
  refine fun s x y rows hs hlen => ⟨_, _, transact_draw hs x y hlen, fun r b hr hb => ?under,
    fun px py hout => ?outside, fun _ _ => rfl, rfl, rfl, ⟨rfl, fun _ => rfl⟩, rfl,
    rfl, rfl, fun _ => rfl, rfl, rfl, rfl⟩
  case under =>
    rw [State.setFb_fb]
    cases hbit : spriteBit rows r b with
    | true =>
      rw [fbGet_fbDraw_of_covers _ _ _ hlen ((covers_iff _ _ hlen hr hb).mpr hbit), Bool.bne_true]
    | false =>
      have hno : ¬ Covers x.toNat y.toNat rows (x.toNat + b) (y.toNat + r) := by
        rw [covers_iff _ _ hlen hr hb, hbit]
        exact Bool.false_ne_true
      rw [fbGet_fbDraw_of_not_covers _ _ _ hlen hno, Bool.bne_false]
  case outside =>
    refine fbGet_fbDraw_of_not_covers _ _ _ hlen ?_
    rintro ⟨r, b, hr, hb, -, hx, hy⟩
    exact hout r b hr hb ⟨hx, hy⟩

/-- Settles O47, by the erase bit of the rasterizer. -/
theorem didEraseIffPixelErased : Obligations.DidEraseIffPixelErased :=
  fun s x y _ hs hlen => ⟨_, _, transact_draw hs x y hlen, fbDraw_erases_iff s.fb x.toNat y.toNat hlen⟩

/-- Settles O48: the second draw flips back the pixels the first flipped, and erases those it set. -/
theorem drawingTwiceRestores : Obligations.DrawingTwiceRestores := by
  intro s x y rows hs hlen
  have hidle : (s.setFb (fbDraw s.fb x.toNat y.toNat rows).1).fsm = .idle := hs
  have hsecond : (s.setFb (fbDraw s.fb x.toNat y.toNat rows).1).transact (.draw x y rows) =
      (.didErase (fbDraw (fbDraw s.fb x.toNat y.toNat rows).1 x.toNat y.toNat rows).2, s) := by
    rw [transact_draw hidle x y hlen, State.draw, State.setFb_fb, fbDraw_fbDraw _ _ _ hlen]
    rfl
  refine ⟨_, _, _, transact_draw hs x y hlen, hsecond, ?_⟩
  simp only [set_by_fbDraw_iff s.fb x.toNat y.toNat hlen, State.setFb_fb]
  exact fbDraw_erases_iff_covers _ _ _ hlen

/-! ## Row words (R139) -/

/-- A row word is not 0 exactly when one of its columns is 1. -/
theorem ne_zero_iff_getMsbD {w : BitVec 64} : w ≠ 0#64 ↔ ∃ c < 64, w.getMsbD c = true := by
  constructor
  · intro hw
    by_contra hno
    refine hw (BitVec.eq_of_getMsbD_eq fun c hc => ?_)
    rw [BitVec.getMsbD_zero]
    exact Bool.eq_false_iff.mpr fun hbit => hno ⟨c, hc, hbit⟩
  · rintro ⟨c, -, hbit⟩ rfl
    rw [BitVec.getMsbD_zero] at hbit
    cases hbit

/-- A row word's column x is its pixel. -/
theorem getMsbD_rowWord (f : Framebuffer) (x y : Nat) : (f.rowWord y).getMsbD (wrapX x) = fbGet f x y := rfl

/-- A row beat erases exactly when a row bit 1 lands on a pixel that was 1. -/
theorem rowBeat_erases_iff (f : Framebuffer) (row : Byte) (x0 yy : Nat) :
    (rowBeat f row x0 yy).2 = true ↔
      ∃ b : Nat, b < 8 ∧ row.getLsbD (7 - b) = true ∧ fbGet f (x0 + b) yy = true := by
  rw [rowBeat, bne_iff_ne, ne_zero_iff_getMsbD]
  simp only [BitVec.getMsbD_and, Bool.and_eq_true]
  constructor
  · rintro ⟨c, hc, hpixel, hmask⟩
    obtain ⟨b, hb, hbit, rfl⟩ := (rowMask_getMsbD row x0 hc).mp hmask
    exact ⟨b, hb, hbit, hpixel⟩
  · rintro ⟨b, hb, hbit, hpixel⟩
    have hc := wrapX_lt (x0 + b)
    exact ⟨_, hc, hpixel, (rowMask_getMsbD row x0 hc).mpr ⟨b, hb, hbit, rfl⟩⟩

/-- The plane after a row beat: the pixels under the mask are flipped. -/
theorem fbGet_rowBeat (f : Framebuffer) (row : Byte) (x0 yy x y : Nat) :
    fbGet (rowBeat f row x0 yy).1 x y = (fbGet f x y != decide (wrapY y = wrapY yy ∧
      ∃ b : Nat, b < 8 ∧ row.getLsbD (7 - b) = true ∧ wrapX (x0 + b) = wrapX x)) := by
  have hmask : (rowMask row x0).getMsbD (wrapX x) = decide (∃ b : Nat, b < 8 ∧
      row.getLsbD (7 - b) = true ∧ wrapX (x0 + b) = wrapX x) := by
    rw [Bool.eq_iff_iff, decide_eq_true_iff, rowMask_getMsbD row x0 (wrapX_lt x)]
  rw [rowBeat, fbGet_setRow]
  split_ifs with hy
  · rw [BitVec.getMsbD_xor, getMsbD_rowWord, hmask, fbGet_congr f rfl hy]
    simp only [hy, true_and, Bool.bne_eq_xor]
  · simp only [hy, false_and, decide_false, Bool.bne_false]

/-- One row beat is one row of the pixel loop. -/
theorem rowBeat_eq_drawRow (f : Framebuffer) (erased : Bool) (row : Byte) (x0 yy : Nat) :
    ((rowBeat f row x0 yy).1, erased || (rowBeat f row x0 yy).2) = drawRow row x0 yy (f, erased) := by
  obtain ⟨hpixels, herases⟩ := drawRow_spec row x0 yy (f, erased)
  refine Prod.ext (fb_ext fun x y => ?plane) ?erase
  case plane => rw [hpixels, fbGet_rowBeat]
  case erase =>
    rw [herases]
    refine congrArg (erased || ·) (Bool.eq_iff_iff.mpr ?_)
    rw [rowBeat_erases_iff, decide_eq_true_iff]

/-- The rows by row beats are the rows of the pixel loop. -/
theorem beatRows_eq_drawRows (x0 y0 r : Nat) (rows : List Byte) (acc : Framebuffer × Bool) :
    beatRows x0 y0 r rows acc = drawRows x0 y0 r rows acc := by
  induction rows generalizing r acc with
  | nil => rfl
  | cons row rows ih => rw [beatRows, ih, rowBeat_eq_drawRow, drawRows]

/-- Settles O49, row by row. -/
theorem rowMaskRasterizerIsPixelLoop : Obligations.RowMaskRasterizerIsPixelLoop :=
  fun f x y rows => beatRows_eq_drawRows (wrapX x) (wrapY y) 0 rows (f, false)

end Sys2Proof.Proofs
end

section
/-! PROOFS. The dispatch state machine of 40_engine.md (R96, R98): clocked with a STEP, a LOAD or a DRAW it
answers once and leaves what the transaction leaves. -/

namespace Sys2Proof.Proofs

open Machine Claims

/-! ## Answering once, in the last cycle -/

/-- Clocked with ps from s, the machine answers exactly once, a in the last cycle, and ends in t. -/
def Answers (ps : List PinsIn) (s : State) (a : Response) (t : State) : Prop :=
  ∃ outs, State.ticks ps s = (outs, t) ∧ AnswersLast outs a

section
variable {s t : State} {p : PinsIn} {ps : List PinsIn} {a : Response} (hrst : p.rst = false)
include hrst

/-- The last cycle is one whose response is due. -/
theorem answers_last (ha : s.clockResponse = a) (hvalid : a.valid = true) :
    Answers [p] s a (s.clockEdge p) := by
  refine ⟨[s.pinsOut p], ?_, [], s.pinsOut p, rfl, nofun, ?_, ?_, ?_, ?_⟩
  · rw [State.ticks, State.ticks, State.tick_of_run hrst]
  · rw [State.pinsOut, hrst, ha, hvalid]; rfl
  all_goals rw [← ha]; rfl

/-- A cycle with no response due comes before the answer. -/
theorem answers_cons (hquiet : s.clockResponse.valid = false) (h : Answers ps (s.clockEdge p) a t) :
    Answers (p :: ps) s a t := by
  obtain ⟨outs, hticks, pre, out, rfl, hpre, hlast⟩ := h
  refine ⟨s.pinsOut p :: (pre ++ [out]), ?_, s.pinsOut p :: pre, out, rfl, ?_, hlast⟩
  · rw [State.ticks, State.tick_of_run hrst, hticks]
  · refine List.forall_mem_cons.mpr ⟨?_, hpre⟩
    rw [State.pinsOut, hquiet, Bool.and_false]

end

/-- Setting FSM to IDLE in IDLE is no change. -/
theorem setFsm_idle_of_idle {s : State} (hs : s.fsm = .idle) : s.setFsm .idle = s := by
  rw [State.setFsm, ← hs]

/-- The cycle that accepts a request gives no response. -/
theorem answers_accept {s t : State} {p : PinsIn} {ps : List PinsIn} {a : Response} (hs : s.fsm = .idle)
    (hrst : p.rst = false) (hreq : p.reqValid = true) (h : Answers ps (s.setFsm (acceptedFsm p)) a t) :
    Answers (p :: ps) s a t := by
  refine answers_cons hrst (by rw [State.clockResponse, hs]; rfl) ?_
  rwa [clockEdge_idle hs, if_pos hreq]

/-! ## STEP -/

section
variable {s t u : State} {b : Byte} {i : Instr}

/-- A STEP request and two cycles bring the fetched word into IR. -/
theorem answers_fetch {ps : List PinsIn} {a : Response} (hs : s.fsm = .idle)
    (h : Answers ps ((s.setIr s.fetch).setFsm .decode) a t) :
    Answers (stepPins b :: waitPins b :: waitPins b :: ps) s a t := by
  refine answers_accept hs rfl rfl (answers_cons rfl rfl (answers_cons rfl rfl ?_))
  have hfetch := clockEdge_fetch (s := s.setFsm .fetchHi) (p := waitPins b) (q := waitPins b) rfl
  exact hfetch ▸ h

/-- COMMIT answers OK and leaves what the instruction does. -/
theorem answers_commit {byte : Option Byte} (hu : u.fsm = .idle) (hi : decodeWord u.ir = some i)
    (h : exec i (u.answered byte) = .next t) :
    Answers [waitPins b] (u.setFsm (.commit byte)) .ok t := by
  have ht : t.fsm = .idle := by
    rw [exec_fsm h]
    cases byte <;> exact hu
  have hexec : exec i ((u.setFsm (.commit byte)).answered byte) = .next (t.setFsm (.commit byte)) := by
    rw [← exec_setFsm h]
    cases byte <;> rfl
  have hedge : (u.setFsm (.commit byte)).clockEdge (waitPins b) = t := by
    rw [clockEdge_commit rfl, State.clockCommit, State.setFsm_ir, hi]
    simp only [hexec]
    exact setFsm_idle_of_idle ht
  exact hedge ▸ answers_last rfl rfl rfl

/-- EXECUTE of an instruction other than CLS goes to COMMIT, with the byte of a Cxkk. -/
theorem clockExecute_of_ne_cls (hi : decodeWord u.ir = some i) (hcls : i ≠ .cls) :
    (u.setFsm .execute).clockExecute (waitPins b) =
      u.setFsm (.commit (if asksRandom i then some b else none)) := by
  rw [State.clockExecute, State.setFsm_ir, hi]
  cases i with
  | cls => exact absurd rfl hcls
  | _ => rfl

/-- CLEAR takes the rest of the rows, one a cycle, to COMMIT. -/
theorem answers_clear {ps : List PinsIn} {a : Response}
    (h : ∀ g, Answers ps ((u.setFb g).setFsm (.commit none)) a t) (n : Nat) (row : Fin 32)
    (hrow : row.val + n = 31) (f : Framebuffer) :
    Answers (List.replicate (n + 1) (waitPins b) ++ ps) ((u.setFb f).setFsm (.clear row)) a t := by
  induction n generalizing row f with
  | zero =>
    refine answers_cons rfl rfl ?_
    rw [clockEdge_clear rfl, dif_neg (by omega)]
    exact h _
  | succ n ih =>
    refine answers_cons rfl rfl ?_
    rw [clockEdge_clear rfl, dif_pos (by omega)]
    exact ih ⟨row.val + 1, by omega⟩ (by simp only; omega) _

end

/-- The byte a STEP's instruction gets is the one the clocked machine latches. -/
theorem answered_fetched (s : State) (i : Instr) (b : Byte) :
    (s.setIr s.fetch).answered (if asksRandom i then some b else none) =
      (if asksRandom i then s.offerRandom b else s).setIr s.fetch := by
  cases asksRandom i <;> rfl

section
variable {s t : State} {b : Byte} (hs : s.fsm = .idle)
include hs

/-- A STEP request whose word decodes is in EXECUTE after three more cycles. -/
theorem answers_execute {ps : List PinsIn} {a : Response} {i : Instr} (hi : decodeWord s.fetch = some i)
    (h : Answers ps ((s.setIr s.fetch).setFsm .execute) a t) :
    Answers (stepPins b :: waitPins b :: waitPins b :: waitPins b :: ps) s a t := by
  refine answers_fetch hs (answers_cons rfl rfl ?_)
  rw [clockEdge_decode rfl, State.setFsm_ir, State.setIr_ir, hi]
  exact h

/-- A STEP of CLS: 32 cycles of CLEAR come before its COMMIT, which clears the plane whatever they left. -/
theorem answers_step_cls (hi : decodeWord s.fetch = some .cls)
    (h : exec .cls (s.setIr s.fetch) = .next t) :
    Answers (stepPins b :: List.replicate (stepCycles .cls) (waitPins b)) s .ok t := by
  refine answers_execute (ps := waitPins b :: (List.replicate 32 (waitPins b) ++ [waitPins b])) hs hi
    (answers_cons rfl rfl ?_)
  rw [clockEdge_execute rfl, State.clockExecute, State.setFsm_ir, State.setIr_ir, hi]
  exact answers_clear (u := s.setIr s.fetch)
    (fun g => answers_commit (u := (s.setIr s.fetch).setFb g) hs hi h) 31 0 rfl s.fb

/-- A STEP of any other instruction goes from EXECUTE to COMMIT. -/
theorem answers_step_of_ne_cls {i : Instr} (hi : decodeWord s.fetch = some i) (hcls : i ≠ .cls)
    (h : exec i ((s.setIr s.fetch).answered (if asksRandom i then some b else none)) = .next t) :
    Answers (stepPins b :: List.replicate (stepCycles i) (waitPins b)) s .ok t := by
  have hcycles : stepCycles i = 5 := by
    cases i with
    | cls => exact absurd rfl hcls
    | _ => rfl
  rw [hcycles]
  refine answers_execute (ps := [waitPins b, waitPins b]) hs hi (answers_cons rfl rfl ?_)
  rw [clockEdge_execute rfl, clockExecute_of_ne_cls hi hcls]
  exact answers_commit hs hi h

/-- A STEP on an unknown opcode goes from DECODE to FAULT. -/
theorem answers_step_of_unknown (hi : decodeWord s.fetch = none) :
    Answers (stepPins b :: List.replicate 4 (waitPins b)) s (.unknownOpcode s.fetch s.fetchAddr)
      (s.setIr s.fetch) := by
  refine answers_fetch (ps := [waitPins b, waitPins b]) hs (answers_cons rfl rfl ?_)
  rw [clockEdge_decode rfl, State.setFsm_ir, State.setIr_ir, hi]
  have hedge : ((s.setIr s.fetch).setFsm .fault).clockEdge (waitPins b) = s.setIr s.fetch := by
    rw [clockEdge_fault rfl]
    exact setFsm_idle_of_idle (s := s.setIr s.fetch) hs
  exact hedge ▸ answers_last (s := (s.setIr s.fetch).setFsm .fault) rfl rfl rfl

end

/-- Settles O50, by the cycles of a word that decodes and of one that does not. -/
theorem clockedStepRefinesStep : Obligations.ClockedStepRefinesStep := by
  refine fun s b hs => ⟨fun i hi => ?_, fun hi => answers_step_of_unknown hs hi⟩
  obtain ⟨t, ht⟩ := exec_isNext i ((s.setIr s.fetch).answered (if asksRandom i then some b else none))
  have hanswers : Answers (stepPins b :: List.replicate (stepCycles i) (waitPins b)) s .ok t := by
    by_cases hcls : i = .cls
    · subst hcls
      exact answers_step_cls hs hi ht
    · exact answers_step_of_ne_cls hs hi hcls ht
  obtain ⟨outs, hclocked⟩ := hanswers
  rw [answered_fetched] at ht
  refine ⟨t, outs, ?_, hclocked⟩
  cases hask : asksRandom i
  · rw [hask] at ht
    exact (step_of_decode hs hi).trans ht
  · rw [hask] at ht
    exact (step_of_decode (s := s.offerRandom b) hs hi).trans ht

/-! ## LOAD -/

/-- On the ports a LOAD request is its start and its length. -/
theorem acceptedFsm_loadPins (start : Addr) (len : BitVec 13) :
    acceptedFsm (loadPins start len) = .loadCheck start len :=
  congrArg₂ Fsm.loadCheck (port_readback (by decide) start) (port_readback (by decide) len)

/-- LOAD_WRITE takes the rest of the data and answers OK. -/
theorem answers_loadWrite {b : Byte} {start : Addr} {len : BitVec 13} (data : List Byte) (sent : Nat)
    (hlen : sent + data.length = len.toNat) (s : State) :
    Answers (data.map beatPins ++ [waitPins b]) (s.setFsm (.loadWrite start len sent)) .ok
      ((((s.setMem (storeBytes s.mem (start.toNat + sent) data)).setPc (zext16 start)).setSc 0).setFsm
        .idle) := by
  induction data generalizing s sent with
  | nil =>
    have hdone : ¬ sent < len.toNat := Nat.not_lt_of_le hlen.ge
    have hedge : (s.setFsm (.loadWrite start len sent)).clockEdge (waitPins b) =
        ((s.setPc (zext16 start)).setSc 0).setFsm .idle := by
      rw [clockEdge_loadWrite rfl, State.clockLoadWrite, if_neg hdone]
      rfl
    exact hedge ▸ answers_last rfl (if_neg hdone) rfl
  | cons d ds ih =>
    rw [List.length_cons] at hlen
    have hmore : sent < len.toNat := by omega
    have hquiet : (s.setFsm (.loadWrite start len sent)).clockResponse = .noResponse := if_pos hmore
    refine answers_cons rfl (by rw [hquiet]; rfl) ?_
    rw [clockEdge_loadWrite rfl, State.clockLoadWrite, if_pos hmore]
    exact ih (sent + 1) (by omega) (s.setMem (memWrite1 s.mem (start.toNat + sent) d))

/-- A LOAD request that fits takes its data and leaves what the LOAD leaves. -/
theorem answers_load_of_fits {s : State} (hs : s.fsm = .idle) (b : Byte) {start : Addr} {data : List Byte}
    (hfit : start.toNat + data.length ≤ 4096) :
    Answers (loadPins start (BitVec.ofNat 13 data.length) :: waitPins b ::
      (data.map beatPins ++ [waitPins b])) s .ok (s.load start data) := by
  have hlen : (BitVec.ofNat 13 data.length).toNat = data.length := by
    rw [BitVec.toNat_ofNat]; omega
  have hfits : loadFits start (BitVec.ofNat 13 data.length).toNat = true := by
    rw [hlen]; exact decide_eq_true hfit
  have hquiet : (s.setFsm (.loadCheck start (BitVec.ofNat 13 data.length))).clockResponse = .noResponse :=
    if_pos hfits
  have hend : (s.load start data).setFsm .idle = s.load start data := setFsm_idle_of_idle hs
  refine answers_accept hs rfl rfl ?_
  rw [acceptedFsm_loadPins]
  refine answers_cons rfl (by rw [hquiet]; rfl) ?_
  rw [clockEdge_loadCheck rfl, if_pos hfits, ← hend]
  exact answers_loadWrite data 0 (by rw [hlen, Nat.zero_add]) s

/-- A LOAD request that does not fit is refused in LOAD_CHECK. -/
theorem answers_load_of_not_fits {s : State} (hs : s.fsm = .idle) (b : Byte) {start : Addr} {len : BitVec 13}
    (hbig : 4096 < start.toNat + len.toNat) :
    Answers [loadPins start len, waitPins b] s .loadTooLarge s := by
  have hno : ¬ loadFits start len.toNat = true := by
    rw [loadFits, decide_eq_true_eq]
    exact Nat.not_le_of_lt hbig
  have hedge : (s.setFsm (.loadCheck start len)).clockEdge (waitPins b) = s := by
    rw [clockEdge_loadCheck rfl, if_neg hno]
    exact setFsm_idle_of_idle hs
  refine answers_accept hs rfl rfl ?_
  rw [acceptedFsm_loadPins]
  exact hedge ▸ answers_last rfl (if_neg hno) rfl

/-- Settles O51, by the two outcomes of LOAD_CHECK. -/
theorem clockedLoadRefinesLoad : Obligations.ClockedLoadRefinesLoad := by
  refine ⟨fun s b start data hs hfit => ?_, fun s b start len hs => answers_load_of_not_fits hs b⟩
  rw [transact_load_of_fits (start := some start) hs hfit]
  exact answers_load_of_fits hs b hfit

/-! ## DRAW -/

/-- On the ports a DRAW request is its coordinates and its row count. -/
theorem acceptedFsm_drawPins (x y : Byte) (n : BitVec 4) :
    acceptedFsm (drawPins x y n) = .drawRow x y n 0 false :=
  congrArg₂ (Fsm.drawRow · · n 0 false) (port_readback (by decide) x) (port_readback (by decide) y)

/-- DRAW_ROW takes the rest of the rows, one row beat each, and answers with the erase bit. -/
theorem answers_drawRow {b x y : Byte} {n : BitVec 4} (rows : List Byte) (sent : Nat)
    (hlen : sent + rows.length = n.toNat) (s : State) (erased : Bool) :
    Answers (rows.map beatPins ++ [waitPins b]) (s.setFsm (.drawRow x y n sent erased))
      (.didErase (beatRows (wrapX x.toNat) (wrapY y.toNat) sent rows (s.fb, erased)).2)
      ((s.setFb (beatRows (wrapX x.toNat) (wrapY y.toNat) sent rows (s.fb, erased)).1).setFsm .idle) := by
  induction rows generalizing s sent erased with
  | nil =>
    have hdone : ¬ sent < n.toNat := Nat.not_lt_of_le hlen.ge
    have hedge : (s.setFsm (.drawRow x y n sent erased)).clockEdge (waitPins b) = s.setFsm .idle := by
      rw [clockEdge_drawRow rfl, State.clockDrawRow, if_neg hdone]
      rfl
    exact hedge ▸ answers_last rfl (if_neg hdone) rfl
  | cons d ds ih =>
    rw [List.length_cons] at hlen
    have hmore : sent < n.toNat := by omega
    have hquiet : (s.setFsm (.drawRow x y n sent erased)).clockResponse = .noResponse := if_pos hmore
    refine answers_cons rfl (by rw [hquiet]; rfl) ?_
    rw [clockEdge_drawRow rfl, State.clockDrawRow, if_pos hmore]
    exact ih (sent + 1) (by omega)
      (s.setFb (rowBeat s.fb d (wrapX x.toNat) (wrapY (wrapY y.toNat + sent))).1) _

/-- Settles O52: the row beats are the rasterizer's (R139). -/
theorem clockedDrawRefinesDraw : Obligations.ClockedDrawRefinesDraw := by
  intro s b x y rows hs hlen
  have hcount : 0 + rows.length = (BitVec.ofNat 4 rows.length).toNat := by
    rw [BitVec.toNat_ofNat]; omega
  have hend : (s.draw x y rows).2.setFsm .idle = (s.draw x y rows).2 := setFsm_idle_of_idle hs
  have hrows := answers_drawRow (b := b) (x := x) (y := y) rows 0 hcount s false
  rw [rowMaskRasterizerIsPixelLoop] at hrows
  rw [transact_draw hs x y hlen, ← hend]
  refine answers_accept hs rfl rfl ?_
  rw [acceptedFsm_drawPins]
  exact hrows

end Sys2Proof.Proofs
end
